-- ==== Sys2Proof/Word.lean ====
section
/-! DEFINITION. The word types of the block: 32-bit registers and addresses, bytes, register numbers
(`00_scope.md` R9, R10; `10_state.md` R20). -/

namespace Sys2Proof

/-- A word: a register value, a pc value, an effective address or an instruction (R9, R10). -/
abbrev Word := BitVec 32

/-- A byte of the data store (R9, R32). -/
abbrev Byte := BitVec 8

/-- A register number: a 5-bit field, so always in range (R20). -/
abbrev RegIdx := BitVec 5

end Sys2Proof
end

