-- ==== Sys2Proof/Config.lean ====
section
/-! DEFINITION. What one build of the block fixes (`00_scope.md` R7): the build parameters, which a state
carries so that statements over all states hold for every build; the system-call numbers; and the
free numbers behind the process exit statuses the spec leaves open. -/

namespace Sys2Proof

/-- `LSU_READ_DIRECTION`: which way a multi-byte load scans the store (R44; D18, conflict C1). -/
inductive ReadDirection where
  | increasingIndex
  | decreasingIndex
deriving DecidableEq, Repr

/-- The build parameters of R7 that change what an instruction does. No instruction reads or writes them. -/
structure Params where
  /-- `CAPACITY`, the size of the data store in bytes (R7, R32). -/
  capacity : Nat
  /-- `LSU_READ_DIRECTION` (R7, R44). -/
  readDirection : ReadDirection
deriving DecidableEq, Repr

namespace Config

/-- The default build of R7: a store of 1 MiB, and loads that scan toward increasing index. -/
def defaultParams : Params := ⟨2 ^ 20, .increasingIndex⟩

/-- `SYS_SELECTOR_REG`: `x10` (R7, R260). -/
def sysSelectorReg : RegIdx := 10#5

/-- `SYS_CODE_REG`: `x11` (R7, R260). -/
def sysCodeReg : RegIdx := 11#5

/-- `SYS_EXIT`: the selector of a normal halt (R7, R260). -/
def sysExit : Word := 10#32

/-- `SYS_EXIT_CODE`: the selector of a halt with the code in `x11` (R7, R260). -/
def sysExitCode : Word := 17#32

/-- FREE VALUES (log 6): the numbers from which the open exit statuses of R289 are made. Nothing constrains them. -/
opaque freeStatus : Nat → Nat

end Config

end Sys2Proof
end

