-- ==== Sys2Proof/Machine/State.lean ====
section
/-! DEFINITION. The state of the block (`10_state.md`), the ways a step can stop, and reset (R34, R320). -/

namespace Sys2Proof.Machine

/-- `status.kind`: which access was out of range (R28). -/
inductive AccessKind where
  | fetch
  | load
  | store
deriving DecidableEq, Repr

/-- The run status with what each value records (R28, R280). -/
inductive RunStatus where
  /-- The run continues. -/
  | running
  /-- ECALL with selector 10 or 17 (R281); `code` is the exit code. -/
  | halted (code : Word)
  /-- A fetch at exactly `4N` (R282). -/
  | endOfProgram
  /-- No executor recognises `word` (R283). -/
  | decodeFault (word : Word)
  /-- A fetch, load or store out of range at `address` (R284). -/
  | addressingFault (kind : AccessKind) (address : Word)
  /-- ECALL with another selector (R285). -/
  | unsupportedSyscall (selector : Word)
deriving DecidableEq, Repr

/-- The data store as the bytes that differ from an unlisted one, by physical index (R32). The canonical form
is `Memory.wf`. -/
abbrev Memory := List Host.Cell

/-- Everything the spec gives the machine (R20 to R33), and the build parameters it runs under (R7; log 5). -/
structure State where
  /-- `x1` … `x31`, at positions 0 … 30 (R22). `x0` is hard-wired and has no storage (R21). -/
  x : Vector Word 31
  /-- The address of the instruction to execute (R25). -/
  pc : Word
  /-- The status register (R28). -/
  status : RunStatus
  /-- `IMEM`: word `k` at byte address `4k`; `N` is its length (R31). -/
  imem : List Word
  /-- `ST` (R32). -/
  store : Memory
  /-- `CAPACITY` and `LSU_READ_DIRECTION` (R7). -/
  params : Params
deriving DecidableEq, Repr

/-- The reasons a step stops the machine. -/
inductive Fault where
  /-- Raised by `step` alone, asked for a step of a run that has ended: "no further step executes" (R286).
  Safe: it adds no behaviour, and nothing changes (log 1). -/
  | runEnded (outcome : RunStatus)
deriving DecidableEq, Repr

/-- The reasons an instruction has no meaning. -/
inductive Refusal where
  /-- Raised by `exec` for an instruction that has no meaning yet; no arm raises it. Safe: the machine stops. -/
  | notModelled (mnemonic : String)
deriving DecidableEq, Repr

/-- Reset, for any build, image, `INIT_X` and `INIT_STORE` (R34, R320). -/
def State.boot (params : Params) (image : List Word) (initX : Vector Word 31) (initStore : Memory) : State :=
  { x := initX, pc := 0, status := .running, imem := image, store := initStore, params := params }

/-- The machine right after reset: `boot` with the default build, the empty image, and zeros for the contents
the spec leaves open (log 2, 3, 4, 5). -/
def State.reset : State :=
  State.boot Config.defaultParams [] (Vector.replicate 31 0) []

end Sys2Proof.Machine
end

