-- ==== Sys2Proof/Machine/Ops.lean ====
section
/-! DEFINITION. The named operations over registers, the pc, the status and the data store: register access
(R21, R22), ending the run (R287, R322), and `MemRead` and `MemWrite` with the address translation
(R42 to R46). -/

namespace Sys2Proof.Machine

/-! ## Status fields (R28) -/

/-- `status.state` without its record: whether the run continues (R28). -/
def RunStatus.isRunning : RunStatus → Bool
  | .running => true
  | .halted _ => false
  | .endOfProgram => false
  | .decodeFault _ => false
  | .addressingFault _ _ => false
  | .unsupportedSyscall _ => false

/-- `status.kind`: only an addressing fault has one (R28). -/
def RunStatus.kind : RunStatus → Option AccessKind
  | .running => none
  | .halted _ => none
  | .endOfProgram => none
  | .decodeFault _ => none
  | .addressingFault k _ => some k
  | .unsupportedSyscall _ => none

/-- `status.value`: the recorded word, "unused (zero) for Running and EndOfProgram" (R28). -/
def RunStatus.value : RunStatus → Word
  | .running => 0
  | .halted c => c
  | .endOfProgram => 0
  | .decodeFault w => w
  | .addressingFault _ a => a
  | .unsupportedSyscall s => s

/-! ## Registers and pc -/

/-- Where a register number stands in the 31 stored registers; the slot of `x0` is never used. -/
theorem regSlot_lt (r : RegIdx) : r.toNat - 1 < 31 := by
  have := r.isLt
  omega

/-- `x[r]`: `x0` reads as zero (R11, R21). -/
def State.readReg (s : State) (r : RegIdx) : Word :=
  if r = 0#5 then 0#32 else s.x[r.toNat - 1]'(regSlot_lt r)

/-- `x[r] <- v`: a write to `x0` is dropped (R11, R21). -/
def State.writeReg (s : State) (r : RegIdx) (v : Word) : State :=
  if r = 0#5 then s else { s with x := s.x.set (r.toNat - 1) v (regSlot_lt r) }

/-- `pc <- target` (R11, R26). -/
def State.setPc (s : State) (target : Word) : State := { s with pc := target }

/-- The sequential successor `pc + 4`, modulo 2^32 (R26). -/
def State.nextPc (s : State) : Word := s.pc + 4

/-- One register write, then `pc <- pc + 4` (R100, R140). -/
def State.writeAndAdvance (s : State) (rd : RegIdx) (v : Word) : State :=
  (s.writeReg rd v).setPc s.nextPc

/-! ## Ending the run

The block's whole exception entry: the outcome goes to the status register, and "no register is written, no
store byte is written, and `pc` keeps the address of that instruction" (R287). There is no handler and no
return (R291, R292). -/

/-- `status <- outcome`; everything else stays (R287, R322). -/
def State.terminate (s : State) (outcome : RunStatus) : State := { s with status := outcome }

/-! ## The store as bytes -/

/-- What a store byte that is not listed holds: the model's `INIT_STORE` (log 3). -/
def Memory.unlisted : Byte := 0

/-- The canonical form: physical indices strictly rising, no entry equal to an unlisted byte. -/
abbrev Memory.wf (m : Memory) : Prop :=
  List.Pairwise (fun a b : Host.Cell => a.1 < b.1) m ∧ ∀ c ∈ m, c.2 ≠ Memory.unlisted

/-- `ST[j]`. -/
def Memory.read : Memory → Nat → Byte
  | [], _ => Memory.unlisted
  | c :: m, j => if c.1 = j then c.2 else Memory.read m j

/-- `ST[j] <- b`, keeping the canonical form. -/
def Memory.write : Memory → Nat → Byte → Memory
  | [], j, b => if b = Memory.unlisted then [] else [(j, b)]
  | c :: m, j, b =>
    if j < c.1 then (if b = Memory.unlisted then c :: m else (j, b) :: c :: m)
    else if j = c.1 then (if b = Memory.unlisted then m else (j, b) :: m)
    else c :: Memory.write m j b

/-! ## Address translation (R42, R43) -/

/-- The stack-pointer transform `CAPACITY − signed(ea)`, an exact integer (R42). -/
def storeIndex (capacity : Nat) (ea : Word) : Int := (capacity : Int) - ea.toInt

/-- `0 ≤ j < CAPACITY` (R43). -/
def validIndex (capacity : Nat) (j : Int) : Bool := decide (0 ≤ j) && decide (j < (capacity : Int))

/-- The step of a load's scan: `+1` for increasing index, `−1` for decreasing (R44). -/
def scanStep : ReadDirection → Int
  | .increasingIndex => 1
  | .decreasingIndex => -1

/-- The indices `MemRead(ea, n)` takes its bytes from, byte 0 first (R44). -/
def readIndices (p : Params) (ea : Word) (n : Nat) : List Int :=
  (List.range n).map fun k => storeIndex p.capacity ea + scanStep p.readDirection * (k : Int)

/-- The indices `MemWrite(ea, n, v)` puts its bytes at, byte 0 first: toward decreasing index (R45). -/
def writeIndices (p : Params) (ea : Word) (n : Nat) : List Int :=
  (List.range n).map fun k => storeIndex p.capacity ea - (k : Int)

/-- Every byte an access touches is in the store; checked before any effect (R46). -/
def indicesOk (p : Params) (js : List Int) : Bool := js.all (validIndex p.capacity)

/-! ## Little-endian assembly (R44, R45, R50) -/

/-- `Σ byte_k · 2^(8k)` (R44). -/
def assembleBytes : List Byte → Nat
  | [] => 0
  | b :: bs => b.toNat + 256 * assembleBytes bs

/-- `v[8k+7 : 8k]` (R45). -/
def byteOf (v : Word) (k : Nat) : Byte := v.extractLsb' (8 * k) 8

/-- Store the byte `k` of `v` at the `k`-th index of a list, counting from `k` (R45). -/
def Memory.writeBytes : Memory → List Int → Nat → Word → Memory
  | m, [], _, _ => m
  | m, j :: js, k, v => Memory.writeBytes (m.write j.toNat (byteOf v k)) js (k + 1) v

/-- `MemRead(ea, n)`: the `8n`-bit value as a word, `n ≤ 4`; nothing where a byte is out of range (R44, R46). -/
def State.memRead (s : State) (ea : Word) (n : Nat) : Option Word :=
  if indicesOk s.params (readIndices s.params ea n) then
    some (BitVec.ofNat 32 (assembleBytes ((readIndices s.params ea n).map fun j => s.store.read j.toNat)))
  else none

/-- `MemWrite(ea, n, v)`: the store after it; nothing where a byte is out of range (R45, R46). -/
def State.memWrite (s : State) (ea : Word) (n : Nat) (v : Word) : Option State :=
  if indicesOk s.params (writeIndices s.params ea n) then
    some { s with store := s.store.writeBytes (writeIndices s.params ea n) 0 v }
  else none

end Sys2Proof.Machine
end

