-- ==== Sys2Proof/Machine/Operands.lean ====
section
/-! DEFINITION. Operand forms: the extensions of R12, the extended immediates (R64 to R68), the effective
address of loads and stores (R41), shift amounts, branch and jump targets. -/

namespace Sys2Proof.Machine

/-- `sext_N(v)`: the low `N` bits of `v` as a two's-complement number (R12). -/
def sext (n : Nat) (v : Word) : Word := (v.setWidth n).signExtend 32

/-- `zext_N(v)`: the low `N` bits of `v`, zeros above (R12). -/
def zext (n : Nat) (v : Word) : Word := (v.setWidth n).setWidth 32

/-- The I- and S-immediates as words: `sext_12` (R64, R65). -/
def immWord (imm : BitVec 12) : Word := imm.signExtend 32

/-- The B-immediate as a word: `sext_13` (R66). -/
def branchWord (offset : BitVec 13) : Word := offset.signExtend 32

/-- The J-immediate as a word: `sext_21` (R68). -/
def jumpWord (offset : BitVec 21) : Word := offset.signExtend 32

/-- The U-immediate: the fragment above 12 zeros (R67). -/
def upperWord (imm20 : BitVec 20) : Word := imm20 ++ 0#12

/-- `ea = x[rs1] + imm`, modulo 2^32 (R41). -/
def State.effectiveAddress (s : State) (rs1 : RegIdx) (imm : BitVec 12) : Word :=
  s.readReg rs1 + immWord imm

/-- `x[rs2][4:0]` (R103, R107, R108). -/
def shiftAmount (v : Word) : Nat := (v.extractLsb' 0 5).toNat

/-- `pc + immB` (R200). -/
def State.branchTarget (s : State) (offset : BitVec 13) : Word := s.pc + branchWord offset

/-- `pc + immJ` (R240). -/
def State.jumpTarget (s : State) (offset : BitVec 21) : Word := s.pc + jumpWord offset

/-- `(x[rs1] + immI) & 0xFFFFFFFE` (R241). -/
def State.jumpRegTarget (s : State) (rs1 : RegIdx) (imm : BitVec 12) : Word :=
  (s.readReg rs1 + immWord imm) &&& 0xFFFFFFFE

end Sys2Proof.Machine
end

