-- ==== Sys2Proof/Machine/Alu.lean ====
section
/-! DEFINITION. Register-register ALU, RV32I OP (`40_alu_reg_reg.md`). -/

namespace Sys2Proof.Machine

/-- The shape of the family: both sources are read first, the result is written, the pc advances (R100). -/
def State.regReg (s : State) (rd rs1 rs2 : RegIdx) (f : Word → Word → Word) : State :=
  s.writeAndAdvance rd (f (s.readReg rs1) (s.readReg rs2))

/-- ADD (R101). -/
def execAdd (rd rs1 rs2 : RegIdx) (s : State) : Host.Outcome State Fault Refusal :=
  .next (s.regReg rd rs1 rs2 fun a b => a + b)

/-- SUB (R102). -/
def execSub (rd rs1 rs2 : RegIdx) (s : State) : Host.Outcome State Fault Refusal :=
  .next (s.regReg rd rs1 rs2 fun a b => a - b)

/-- SLL: by the low 5 bits of `x[rs2]` (R103). -/
def execSll (rd rs1 rs2 : RegIdx) (s : State) : Host.Outcome State Fault Refusal :=
  .next (s.regReg rd rs1 rs2 fun a b => a <<< shiftAmount b)

/-- SLT (R104). -/
def execSlt (rd rs1 rs2 : RegIdx) (s : State) : Host.Outcome State Fault Refusal :=
  .next (s.regReg rd rs1 rs2 fun a b => boolWord (ltSigned a b))

/-- SLTU (R105). -/
def execSltu (rd rs1 rs2 : RegIdx) (s : State) : Host.Outcome State Fault Refusal :=
  .next (s.regReg rd rs1 rs2 fun a b => boolWord (ltUnsigned a b))

/-- XOR (R106). -/
def execXor (rd rs1 rs2 : RegIdx) (s : State) : Host.Outcome State Fault Refusal :=
  .next (s.regReg rd rs1 rs2 fun a b => a ^^^ b)

/-- SRL: by the low 5 bits of `x[rs2]` (R107). -/
def execSrl (rd rs1 rs2 : RegIdx) (s : State) : Host.Outcome State Fault Refusal :=
  .next (s.regReg rd rs1 rs2 fun a b => a >>> shiftAmount b)

/-- SRA: by the low 5 bits of `x[rs2]` (R108). -/
def execSra (rd rs1 rs2 : RegIdx) (s : State) : Host.Outcome State Fault Refusal :=
  .next (s.regReg rd rs1 rs2 fun a b => a.sshiftRight (shiftAmount b))

/-- OR (R109). -/
def execOr (rd rs1 rs2 : RegIdx) (s : State) : Host.Outcome State Fault Refusal :=
  .next (s.regReg rd rs1 rs2 fun a b => a ||| b)

/-- AND (R110). -/
def execAnd (rd rs1 rs2 : RegIdx) (s : State) : Host.Outcome State Fault Refusal :=
  .next (s.regReg rd rs1 rs2 fun a b => a &&& b)

end Sys2Proof.Machine
end

