-- ==== Sys2Proof/Machine/AluImm.lean ====
section
/-! DEFINITION. Register-immediate ALU, RV32I OP-IMM (`42_alu_reg_imm.md`). -/

namespace Sys2Proof.Machine

/-- The shape of the family: the source is read, the result is written, the pc advances (R140). -/
def State.regImm (s : State) (rd rs1 : RegIdx) (f : Word → Word) : State :=
  s.writeAndAdvance rd (f (s.readReg rs1))

/-- ADDI (R141). -/
def execAddi (rd rs1 : RegIdx) (imm : BitVec 12) (s : State) : Host.Outcome State Fault Refusal :=
  .next (s.regImm rd rs1 fun a => a + immWord imm)

/-- SLTI (R142). -/
def execSlti (rd rs1 : RegIdx) (imm : BitVec 12) (s : State) : Host.Outcome State Fault Refusal :=
  .next (s.regImm rd rs1 fun a => boolWord (ltSigned a (immWord imm)))

/-- SLTIU: the immediate is sign-extended, then compared unsigned (R143). -/
def execSltiu (rd rs1 : RegIdx) (imm : BitVec 12) (s : State) : Host.Outcome State Fault Refusal :=
  .next (s.regImm rd rs1 fun a => boolWord (ltUnsigned a (immWord imm)))

/-- XORI (R144). -/
def execXori (rd rs1 : RegIdx) (imm : BitVec 12) (s : State) : Host.Outcome State Fault Refusal :=
  .next (s.regImm rd rs1 fun a => a ^^^ immWord imm)

/-- ORI (R145). -/
def execOri (rd rs1 : RegIdx) (imm : BitVec 12) (s : State) : Host.Outcome State Fault Refusal :=
  .next (s.regImm rd rs1 fun a => a ||| immWord imm)

/-- ANDI (R146). -/
def execAndi (rd rs1 : RegIdx) (imm : BitVec 12) (s : State) : Host.Outcome State Fault Refusal :=
  .next (s.regImm rd rs1 fun a => a &&& immWord imm)

/-- SLLI (R147). -/
def execSlli (rd rs1 : RegIdx) (shamt : BitVec 5) (s : State) : Host.Outcome State Fault Refusal :=
  .next (s.regImm rd rs1 fun a => a <<< shamt.toNat)

/-- SRLI (R148). -/
def execSrli (rd rs1 : RegIdx) (shamt : BitVec 5) (s : State) : Host.Outcome State Fault Refusal :=
  .next (s.regImm rd rs1 fun a => a >>> shamt.toNat)

/-- SRAI: "masks shift amount to 5 bits before shifting" (R149); the operand is those 5 bits. -/
def execSrai (rd rs1 : RegIdx) (shamt : BitVec 5) (s : State) : Host.Outcome State Fault Refusal :=
  .next (s.regImm rd rs1 fun a => a.sshiftRight shamt.toNat)

end Sys2Proof.Machine
end

