-- ==== Sys2Proof/Machine/Branch.lean ====
section
/-! DEFINITION. Conditional branches (`45_branch.md`). -/

namespace Sys2Proof.Machine

/-- The shape of the family: to `pc + immB` if the condition holds, else to `pc + 4`; nothing else is written
and the target is not checked (R200). -/
def State.branchIf (s : State) (cond : Word → Word → Bool) (rs1 rs2 : RegIdx) (offset : BitVec 13) : State :=
  s.setPc (if cond (s.readReg rs1) (s.readReg rs2) then s.branchTarget offset else s.nextPc)

/-- BEQ (R201). -/
def execBeq (rs1 rs2 : RegIdx) (offset : BitVec 13) (s : State) : Host.Outcome State Fault Refusal :=
  .next (s.branchIf (fun a b => a == b) rs1 rs2 offset)

/-- BNE (R202). -/
def execBne (rs1 rs2 : RegIdx) (offset : BitVec 13) (s : State) : Host.Outcome State Fault Refusal :=
  .next (s.branchIf (fun a b => !(a == b)) rs1 rs2 offset)

/-- BLT (R203). -/
def execBlt (rs1 rs2 : RegIdx) (offset : BitVec 13) (s : State) : Host.Outcome State Fault Refusal :=
  .next (s.branchIf ltSigned rs1 rs2 offset)

/-- BGE (R204). -/
def execBge (rs1 rs2 : RegIdx) (offset : BitVec 13) (s : State) : Host.Outcome State Fault Refusal :=
  .next (s.branchIf (fun a b => !ltSigned a b) rs1 rs2 offset)

/-- BLTU (R205). -/
def execBltu (rs1 rs2 : RegIdx) (offset : BitVec 13) (s : State) : Host.Outcome State Fault Refusal :=
  .next (s.branchIf ltUnsigned rs1 rs2 offset)

/-- BGEU (R206). -/
def execBgeu (rs1 rs2 : RegIdx) (offset : BitVec 13) (s : State) : Host.Outcome State Fault Refusal :=
  .next (s.branchIf (fun a b => !ltUnsigned a b) rs1 rs2 offset)

end Sys2Proof.Machine
end

