-- ==== Sys2Proof/Machine/Jump.lean ====
section
/-! DEFINITION. JAL and JALR (`47_jumps.md`). -/

namespace Sys2Proof.Machine

/-- `x[rd] <- pc + 4`; `pc <- target`, the target computed from the state before (R240, R241, R24). -/
def State.linkTo (s : State) (rd : RegIdx) (target : Word) : State :=
  (s.writeReg rd s.nextPc).setPc target

/-- JAL (R240). -/
def execJal (rd : RegIdx) (offset : BitVec 21) (s : State) : Host.Outcome State Fault Refusal :=
  .next (s.linkTo rd (s.jumpTarget offset))

/-- JALR: only bit 0 of the target is cleared (R241). -/
def execJalr (rd rs1 : RegIdx) (imm : BitVec 12) (s : State) : Host.Outcome State Fault Refusal :=
  .next (s.linkTo rd (s.jumpRegTarget rs1 imm))

end Sys2Proof.Machine
end

