-- ==== Sys2Proof/Machine/Load.lean ====
section
/-! DEFINITION. Loads (`43_load.md`). -/

namespace Sys2Proof.Machine

/-- The shape of the family: read `n` bytes at `ea`, extend, write `rd`, advance; a byte out of range ends the
run with `AddressingFault(load, ea)` and no other effect, also where `rd` is `x0` (R160, R46, R80). -/
def State.loadAt (s : State) (n : Nat) (extend : Word → Word) (rd rs1 : RegIdx) (imm : BitVec 12) : State :=
  match s.memRead (s.effectiveAddress rs1 imm) n with
  | some v => s.writeAndAdvance rd (extend v)
  | none => s.terminate (.addressingFault .load (s.effectiveAddress rs1 imm))

/-- LB (R161). -/
def execLb (rd rs1 : RegIdx) (imm : BitVec 12) (s : State) : Host.Outcome State Fault Refusal :=
  .next (s.loadAt 1 (sext 8) rd rs1 imm)

/-- LH (R162). -/
def execLh (rd rs1 : RegIdx) (imm : BitVec 12) (s : State) : Host.Outcome State Fault Refusal :=
  .next (s.loadAt 2 (sext 16) rd rs1 imm)

/-- LW (R163). -/
def execLw (rd rs1 : RegIdx) (imm : BitVec 12) (s : State) : Host.Outcome State Fault Refusal :=
  .next (s.loadAt 4 (fun v => v) rd rs1 imm)

/-- LBU (R164). -/
def execLbu (rd rs1 : RegIdx) (imm : BitVec 12) (s : State) : Host.Outcome State Fault Refusal :=
  .next (s.loadAt 1 (zext 8) rd rs1 imm)

/-- LHU (R165). -/
def execLhu (rd rs1 : RegIdx) (imm : BitVec 12) (s : State) : Host.Outcome State Fault Refusal :=
  .next (s.loadAt 2 (zext 16) rd rs1 imm)

end Sys2Proof.Machine
end

