-- ==== Sys2Proof/Machine/MulDiv.lean ====
section
/-! DEFINITION. Multiply and divide, the M extension (`41_muldiv.md`). Products and quotients are exact
integers, narrowed at the end (R120). -/

namespace Sys2Proof.Machine

/-- `p[63:32]` of the 64-bit two's-complement form of `p` (R122, R123, R124). -/
def highWord (p : Int) : Word := (BitVec.ofInt 64 p).extractLsb' 32 32

/-- DIV's result: −1 at divisor 0, `INT_MIN` for `INT_MIN / −1`, else the quotient rounded toward zero (R125). -/
def quotSigned (a b : Word) : Word :=
  if b = 0#32 then 0xFFFFFFFF#32
  else if a = 0x80000000#32 ∧ b = 0xFFFFFFFF#32 then 0x80000000#32
  else BitVec.ofInt 32 (a.toInt.tdiv b.toInt)

/-- DIVU's result: the dividend at divisor 0, "explicitly non-standard" (R126, C2). -/
def quotUnsigned (a b : Word) : Word :=
  if b = 0#32 then a else BitVec.ofNat 32 (a.toNat / b.toNat)

/-- REM's result: the dividend at divisor 0, 0 for `INT_MIN / −1`, else the remainder of the quotient rounded
toward zero (R127). -/
def remSigned (a b : Word) : Word :=
  if b = 0#32 then a
  else if a = 0x80000000#32 ∧ b = 0xFFFFFFFF#32 then 0
  else BitVec.ofInt 32 (a.toInt - b.toInt * a.toInt.tdiv b.toInt)

/-- REMU's result: the dividend at divisor 0 (R128). -/
def remUnsigned (a b : Word) : Word :=
  if b = 0#32 then a else BitVec.ofNat 32 (a.toNat % b.toNat)

/-- MUL (R121). -/
def execMul (rd rs1 rs2 : RegIdx) (s : State) : Host.Outcome State Fault Refusal :=
  .next (s.regReg rd rs1 rs2 fun a b => BitVec.ofNat 32 (a.toNat * b.toNat))

/-- MULH: signed × signed (R122). -/
def execMulh (rd rs1 rs2 : RegIdx) (s : State) : Host.Outcome State Fault Refusal :=
  .next (s.regReg rd rs1 rs2 fun a b => highWord (a.toInt * b.toInt))

/-- MULHSU: `rs1` signed × `rs2` unsigned (R123). -/
def execMulhsu (rd rs1 rs2 : RegIdx) (s : State) : Host.Outcome State Fault Refusal :=
  .next (s.regReg rd rs1 rs2 fun a b => highWord (a.toInt * (b.toNat : Int)))

/-- MULHU: unsigned × unsigned (R124). -/
def execMulhu (rd rs1 rs2 : RegIdx) (s : State) : Host.Outcome State Fault Refusal :=
  .next (s.regReg rd rs1 rs2 fun a b => highWord ((a.toNat : Int) * (b.toNat : Int)))

/-- DIV (R125). -/
def execDiv (rd rs1 rs2 : RegIdx) (s : State) : Host.Outcome State Fault Refusal :=
  .next (s.regReg rd rs1 rs2 quotSigned)

/-- DIVU (R126). -/
def execDivu (rd rs1 rs2 : RegIdx) (s : State) : Host.Outcome State Fault Refusal :=
  .next (s.regReg rd rs1 rs2 quotUnsigned)

/-- REM (R127). -/
def execRem (rd rs1 rs2 : RegIdx) (s : State) : Host.Outcome State Fault Refusal :=
  .next (s.regReg rd rs1 rs2 remSigned)

/-- REMU (R128). -/
def execRemu (rd rs1 rs2 : RegIdx) (s : State) : Host.Outcome State Fault Refusal :=
  .next (s.regReg rd rs1 rs2 remUnsigned)

end Sys2Proof.Machine
end

