-- ==== Sys2Proof/Machine/Store.lean ====
section
/-! DEFINITION. Stores (`44_store.md`). -/

namespace Sys2Proof.Machine

/-- The shape of the family: write the low `n` bytes of `x[rs2]` at `ea`, advance; a byte out of range ends the
run with `AddressingFault(store, ea)` and no byte written (R180, R46). -/
def State.storeAt (s : State) (n : Nat) (rs2 rs1 : RegIdx) (imm : BitVec 12) : State :=
  match s.memWrite (s.effectiveAddress rs1 imm) n (s.readReg rs2) with
  | some t => t.setPc s.nextPc
  | none => s.terminate (.addressingFault .store (s.effectiveAddress rs1 imm))

/-- SB (R181). -/
def execSb (rs2 rs1 : RegIdx) (imm : BitVec 12) (s : State) : Host.Outcome State Fault Refusal :=
  .next (s.storeAt 1 rs2 rs1 imm)

/-- SH (R182). -/
def execSh (rs2 rs1 : RegIdx) (imm : BitVec 12) (s : State) : Host.Outcome State Fault Refusal :=
  .next (s.storeAt 2 rs2 rs1 imm)

/-- SW (R183). -/
def execSw (rs2 rs1 : RegIdx) (imm : BitVec 12) (s : State) : Host.Outcome State Fault Refusal :=
  .next (s.storeAt 4 rs2 rs1 imm)

end Sys2Proof.Machine
end

