-- ==== Sys2Proof/Machine/System.lean ====
section
/-! DEFINITION. ECALL (`48_system.md`): the block itself interprets the selector; there is no trap. -/

namespace Sys2Proof.Machine

/-- The outcome of an environment call, from the selector and the code register (R260, R261). -/
def syscallOutcome (selector code : Word) : RunStatus :=
  if selector = Config.sysExit then .halted 0
  else if selector = Config.sysExitCode then .halted code
  else .unsupportedSyscall selector

/-- ECALL: every outcome ends the run (R260). -/
def execEcall (s : State) : Host.Outcome State Fault Refusal :=
  .next (s.terminate (syscallOutcome (s.readReg Config.sysSelectorReg) (s.readReg Config.sysCodeReg)))

end Sys2Proof.Machine
end

