-- ==== Sys2Proof/Machine/UpperImm.lean ====
section
/-! DEFINITION. LUI and AUIPC (`46_upper_imm.md`). -/

namespace Sys2Proof.Machine

/-- LUI (R220). -/
def execLui (rd : RegIdx) (imm20 : BitVec 20) (s : State) : Host.Outcome State Fault Refusal :=
  .next (s.writeAndAdvance rd (upperWord imm20))

/-- AUIPC: relative to its own address (R221). -/
def execAuipc (rd : RegIdx) (imm20 : BitVec 20) (s : State) : Host.Outcome State Fault Refusal :=
  .next (s.writeAndAdvance rd (s.pc + upperWord imm20))

end Sys2Proof.Machine
end

