-- ==== Sys2Proof/Syntax.lean ====
section
/-! DEFINITION. The instructions: one constructor per row of `opcode_table.json`, operands as the fields of
`30_encoding.md` R61 and R62. An immediate stands as the number its fragments assemble to, before sign
extension (R64 to R68). -/

namespace Sys2Proof

/-- The 46 instructions (R2). -/
inductive Instr where
  -- OP, R format (R71)
  /-- ADD (R101). -/
  | add (rd rs1 rs2 : RegIdx)
  /-- SUB (R102). -/
  | sub (rd rs1 rs2 : RegIdx)
  /-- SLL (R103). -/
  | sll (rd rs1 rs2 : RegIdx)
  /-- SLT (R104). -/
  | slt (rd rs1 rs2 : RegIdx)
  /-- SLTU (R105). -/
  | sltu (rd rs1 rs2 : RegIdx)
  /-- XOR (R106). -/
  | xor (rd rs1 rs2 : RegIdx)
  /-- SRL (R107). -/
  | srl (rd rs1 rs2 : RegIdx)
  /-- SRA (R108). -/
  | sra (rd rs1 rs2 : RegIdx)
  /-- OR (R109). -/
  | or (rd rs1 rs2 : RegIdx)
  /-- AND (R110). -/
  | and (rd rs1 rs2 : RegIdx)
  /-- MUL (R121). -/
  | mul (rd rs1 rs2 : RegIdx)
  /-- MULH (R122). -/
  | mulh (rd rs1 rs2 : RegIdx)
  /-- MULHSU (R123). -/
  | mulhsu (rd rs1 rs2 : RegIdx)
  /-- MULHU (R124). -/
  | mulhu (rd rs1 rs2 : RegIdx)
  /-- DIV (R125). -/
  | div (rd rs1 rs2 : RegIdx)
  /-- DIVU (R126). -/
  | divu (rd rs1 rs2 : RegIdx)
  /-- REM (R127). -/
  | rem (rd rs1 rs2 : RegIdx)
  /-- REMU (R128). -/
  | remu (rd rs1 rs2 : RegIdx)
  -- OP-IMM, I format (R72)
  /-- ADDI (R141). -/
  | addi (rd rs1 : RegIdx) (imm : BitVec 12)
  /-- SLTI (R142). -/
  | slti (rd rs1 : RegIdx) (imm : BitVec 12)
  /-- SLTIU (R143). -/
  | sltiu (rd rs1 : RegIdx) (imm : BitVec 12)
  /-- XORI (R144). -/
  | xori (rd rs1 : RegIdx) (imm : BitVec 12)
  /-- ORI (R145). -/
  | ori (rd rs1 : RegIdx) (imm : BitVec 12)
  /-- ANDI (R146). -/
  | andi (rd rs1 : RegIdx) (imm : BitVec 12)
  -- OP-IMM shifts (R72)
  /-- SLLI (R147). -/
  | slli (rd rs1 : RegIdx) (shamt : BitVec 5)
  /-- SRLI (R148). -/
  | srli (rd rs1 : RegIdx) (shamt : BitVec 5)
  /-- SRAI (R149). -/
  | srai (rd rs1 : RegIdx) (shamt : BitVec 5)
  -- LOAD, I format (R73)
  /-- LB (R161). -/
  | lb (rd rs1 : RegIdx) (imm : BitVec 12)
  /-- LH (R162). -/
  | lh (rd rs1 : RegIdx) (imm : BitVec 12)
  /-- LW (R163). -/
  | lw (rd rs1 : RegIdx) (imm : BitVec 12)
  /-- LBU (R164). -/
  | lbu (rd rs1 : RegIdx) (imm : BitVec 12)
  /-- LHU (R165). -/
  | lhu (rd rs1 : RegIdx) (imm : BitVec 12)
  -- STORE, S format (R74)
  /-- SB (R181). -/
  | sb (rs2 rs1 : RegIdx) (imm : BitVec 12)
  /-- SH (R182). -/
  | sh (rs2 rs1 : RegIdx) (imm : BitVec 12)
  /-- SW (R183). -/
  | sw (rs2 rs1 : RegIdx) (imm : BitVec 12)
  -- BRANCH, B format (R75)
  /-- BEQ (R201). -/
  | beq (rs1 rs2 : RegIdx) (offset : BitVec 13)
  /-- BNE (R202). -/
  | bne (rs1 rs2 : RegIdx) (offset : BitVec 13)
  /-- BLT (R203). -/
  | blt (rs1 rs2 : RegIdx) (offset : BitVec 13)
  /-- BGE (R204). -/
  | bge (rs1 rs2 : RegIdx) (offset : BitVec 13)
  /-- BLTU (R205). -/
  | bltu (rs1 rs2 : RegIdx) (offset : BitVec 13)
  /-- BGEU (R206). -/
  | bgeu (rs1 rs2 : RegIdx) (offset : BitVec 13)
  -- LUI and AUIPC, U format (R76)
  /-- LUI (R220). -/
  | lui (rd : RegIdx) (imm20 : BitVec 20)
  /-- AUIPC (R221). -/
  | auipc (rd : RegIdx) (imm20 : BitVec 20)
  -- JAL, J format (R76)
  /-- JAL (R240). -/
  | jal (rd : RegIdx) (offset : BitVec 21)
  -- JALR, I format (R77)
  /-- JALR (R241). -/
  | jalr (rd rs1 : RegIdx) (imm : BitVec 12)
  -- SYSTEM (R78)
  /-- ECALL (R260). -/
  | ecall
deriving DecidableEq, Repr

/-- The row of `opcode_table.json` an instruction stands for. -/
def Instr.mnemonic : Instr → String
  | .add _ _ _ => "ADD"
  | .sub _ _ _ => "SUB"
  | .sll _ _ _ => "SLL"
  | .slt _ _ _ => "SLT"
  | .sltu _ _ _ => "SLTU"
  | .xor _ _ _ => "XOR"
  | .srl _ _ _ => "SRL"
  | .sra _ _ _ => "SRA"
  | .or _ _ _ => "OR"
  | .and _ _ _ => "AND"
  | .mul _ _ _ => "MUL"
  | .mulh _ _ _ => "MULH"
  | .mulhsu _ _ _ => "MULHSU"
  | .mulhu _ _ _ => "MULHU"
  | .div _ _ _ => "DIV"
  | .divu _ _ _ => "DIVU"
  | .rem _ _ _ => "REM"
  | .remu _ _ _ => "REMU"
  | .addi _ _ _ => "ADDI"
  | .slti _ _ _ => "SLTI"
  | .sltiu _ _ _ => "SLTIU"
  | .xori _ _ _ => "XORI"
  | .ori _ _ _ => "ORI"
  | .andi _ _ _ => "ANDI"
  | .slli _ _ _ => "SLLI"
  | .srli _ _ _ => "SRLI"
  | .srai _ _ _ => "SRAI"
  | .lb _ _ _ => "LB"
  | .lh _ _ _ => "LH"
  | .lw _ _ _ => "LW"
  | .lbu _ _ _ => "LBU"
  | .lhu _ _ _ => "LHU"
  | .sb _ _ _ => "SB"
  | .sh _ _ _ => "SH"
  | .sw _ _ _ => "SW"
  | .beq _ _ _ => "BEQ"
  | .bne _ _ _ => "BNE"
  | .blt _ _ _ => "BLT"
  | .bge _ _ _ => "BGE"
  | .bltu _ _ _ => "BLTU"
  | .bgeu _ _ _ => "BGEU"
  | .lui _ _ => "LUI"
  | .auipc _ _ => "AUIPC"
  | .jal _ _ => "JAL"
  | .jalr _ _ _ => "JALR"
  | .ecall => "ECALL"

end Sys2Proof
end

