-- ==== Sys2Proof/Decode.lean ====
section
/-! DEFINITION. The Bit-Field Codec, the Immediate Assembler and the dispatch table of `30_encoding.md`
(R60 to R79); then the encoder, from the same format tables (R61, R62); then the opcode table's match and
mask of each row. -/

namespace Sys2Proof

/-! ## Fields of a word (R61, R63) -/

def fieldOpcode (w : Word) : BitVec 7 := w.extractLsb' 0 7
def fieldRd (w : Word) : RegIdx := w.extractLsb' 7 5
def fieldFunct3 (w : Word) : BitVec 3 := w.extractLsb' 12 3
def fieldRs1 (w : Word) : RegIdx := w.extractLsb' 15 5
def fieldRs2 (w : Word) : RegIdx := w.extractLsb' 20 5
def fieldFunct7 (w : Word) : BitVec 7 := w.extractLsb' 25 7

/-! ## Immediate fragments, assembled but not yet extended (R62, R64 to R68) -/

/-- `w[31:20]` (R64). -/
def immI (w : Word) : BitVec 12 := w.extractLsb' 20 12

/-- `{w[31:25], w[11:7]}` (R65). -/
def immS (w : Word) : BitVec 12 := w.extractLsb' 25 7 ++ w.extractLsb' 7 5

/-- `{w[31], w[7], w[30:25], w[11:8], 0}` (R66). -/
def immB (w : Word) : BitVec 13 :=
  w.extractLsb' 31 1 ++ w.extractLsb' 7 1 ++ w.extractLsb' 25 6 ++ w.extractLsb' 8 4 ++ 0#1

/-- `w[31:12]`, the 20-bit fragment of R67. -/
def immU (w : Word) : BitVec 20 := w.extractLsb' 12 20

/-- `{w[31], w[19:12], w[20], w[30:21], 0}` (R68). -/
def immJ (w : Word) : BitVec 21 :=
  w.extractLsb' 31 1 ++ w.extractLsb' 12 8 ++ w.extractLsb' 20 1 ++ w.extractLsb' 21 10 ++ 0#1

/-! ## Decode -/

/-- Why a word is no instruction: the "offending field value" of R79. -/
inductive DecodeError where
  /-- Fewer than four bytes: not a whole instruction word (R60). Raised on byte lists only. -/
  | truncated
  /-- An opcode outside the dispatch table (R70, R79). -/
  | unknownOpcode (opcode : BitVec 7)
  /-- "Unknown funct3 within any family" (R73, R74, R75, R77). -/
  | unknownFunct3 (opcode : BitVec 7) (funct3 : BitVec 3)
  /-- A `funct7`, or bits `31:25` of a shift-immediate, that selects nothing (R71, R72). -/
  | unknownFunct7 (opcode : BitVec 7) (funct3 : BitVec 3) (funct7 : BitVec 7)
  /-- A SYSTEM word other than ECALL (R78). -/
  | unknownSystem (word : Word)
deriving DecidableEq, Repr

/-- OP: by `funct7`, then `funct3` (R71). -/
def decodeOp (w : Word) : Except DecodeError Instr :=
  if fieldFunct7 w = 0b0000000 then
    if fieldFunct3 w = 0b000 then .ok (.add (fieldRd w) (fieldRs1 w) (fieldRs2 w))
    else if fieldFunct3 w = 0b001 then .ok (.sll (fieldRd w) (fieldRs1 w) (fieldRs2 w))
    else if fieldFunct3 w = 0b010 then .ok (.slt (fieldRd w) (fieldRs1 w) (fieldRs2 w))
    else if fieldFunct3 w = 0b011 then .ok (.sltu (fieldRd w) (fieldRs1 w) (fieldRs2 w))
    else if fieldFunct3 w = 0b100 then .ok (.xor (fieldRd w) (fieldRs1 w) (fieldRs2 w))
    else if fieldFunct3 w = 0b101 then .ok (.srl (fieldRd w) (fieldRs1 w) (fieldRs2 w))
    else if fieldFunct3 w = 0b110 then .ok (.or (fieldRd w) (fieldRs1 w) (fieldRs2 w))
    else .ok (.and (fieldRd w) (fieldRs1 w) (fieldRs2 w))
  else if fieldFunct7 w = 0b0100000 then
    if fieldFunct3 w = 0b000 then .ok (.sub (fieldRd w) (fieldRs1 w) (fieldRs2 w))
    else if fieldFunct3 w = 0b101 then .ok (.sra (fieldRd w) (fieldRs1 w) (fieldRs2 w))
    else .error (.unknownFunct7 (fieldOpcode w) (fieldFunct3 w) (fieldFunct7 w))
  else if fieldFunct7 w = 0b0000001 then
    if fieldFunct3 w = 0b000 then .ok (.mul (fieldRd w) (fieldRs1 w) (fieldRs2 w))
    else if fieldFunct3 w = 0b001 then .ok (.mulh (fieldRd w) (fieldRs1 w) (fieldRs2 w))
    else if fieldFunct3 w = 0b010 then .ok (.mulhsu (fieldRd w) (fieldRs1 w) (fieldRs2 w))
    else if fieldFunct3 w = 0b011 then .ok (.mulhu (fieldRd w) (fieldRs1 w) (fieldRs2 w))
    else if fieldFunct3 w = 0b100 then .ok (.div (fieldRd w) (fieldRs1 w) (fieldRs2 w))
    else if fieldFunct3 w = 0b101 then .ok (.divu (fieldRd w) (fieldRs1 w) (fieldRs2 w))
    else if fieldFunct3 w = 0b110 then .ok (.rem (fieldRd w) (fieldRs1 w) (fieldRs2 w))
    else .ok (.remu (fieldRd w) (fieldRs1 w) (fieldRs2 w))
  else .error (.unknownFunct7 (fieldOpcode w) (fieldFunct3 w) (fieldFunct7 w))

/-- OP-IMM: by `funct3`, and for the shifts by `w[31:25]` (R72). -/
def decodeOpImm (w : Word) : Except DecodeError Instr :=
  if fieldFunct3 w = 0b000 then .ok (.addi (fieldRd w) (fieldRs1 w) (immI w))
  else if fieldFunct3 w = 0b010 then .ok (.slti (fieldRd w) (fieldRs1 w) (immI w))
  else if fieldFunct3 w = 0b011 then .ok (.sltiu (fieldRd w) (fieldRs1 w) (immI w))
  else if fieldFunct3 w = 0b100 then .ok (.xori (fieldRd w) (fieldRs1 w) (immI w))
  else if fieldFunct3 w = 0b110 then .ok (.ori (fieldRd w) (fieldRs1 w) (immI w))
  else if fieldFunct3 w = 0b111 then .ok (.andi (fieldRd w) (fieldRs1 w) (immI w))
  else if fieldFunct3 w = 0b001 then
    if fieldFunct7 w = 0b0000000 then .ok (.slli (fieldRd w) (fieldRs1 w) (fieldRs2 w))
    else .error (.unknownFunct7 (fieldOpcode w) (fieldFunct3 w) (fieldFunct7 w))
  else
    if fieldFunct7 w = 0b0000000 then .ok (.srli (fieldRd w) (fieldRs1 w) (fieldRs2 w))
    else if fieldFunct7 w = 0b0100000 then .ok (.srai (fieldRd w) (fieldRs1 w) (fieldRs2 w))
    else .error (.unknownFunct7 (fieldOpcode w) (fieldFunct3 w) (fieldFunct7 w))

/-- LOAD: by `funct3` (R73). -/
def decodeLoad (w : Word) : Except DecodeError Instr :=
  if fieldFunct3 w = 0b000 then .ok (.lb (fieldRd w) (fieldRs1 w) (immI w))
  else if fieldFunct3 w = 0b001 then .ok (.lh (fieldRd w) (fieldRs1 w) (immI w))
  else if fieldFunct3 w = 0b010 then .ok (.lw (fieldRd w) (fieldRs1 w) (immI w))
  else if fieldFunct3 w = 0b100 then .ok (.lbu (fieldRd w) (fieldRs1 w) (immI w))
  else if fieldFunct3 w = 0b101 then .ok (.lhu (fieldRd w) (fieldRs1 w) (immI w))
  else .error (.unknownFunct3 (fieldOpcode w) (fieldFunct3 w))

/-- STORE: by `funct3` (R74). -/
def decodeStore (w : Word) : Except DecodeError Instr :=
  if fieldFunct3 w = 0b000 then .ok (.sb (fieldRs2 w) (fieldRs1 w) (immS w))
  else if fieldFunct3 w = 0b001 then .ok (.sh (fieldRs2 w) (fieldRs1 w) (immS w))
  else if fieldFunct3 w = 0b010 then .ok (.sw (fieldRs2 w) (fieldRs1 w) (immS w))
  else .error (.unknownFunct3 (fieldOpcode w) (fieldFunct3 w))

/-- BRANCH: by `funct3` (R75). -/
def decodeBranch (w : Word) : Except DecodeError Instr :=
  if fieldFunct3 w = 0b000 then .ok (.beq (fieldRs1 w) (fieldRs2 w) (immB w))
  else if fieldFunct3 w = 0b001 then .ok (.bne (fieldRs1 w) (fieldRs2 w) (immB w))
  else if fieldFunct3 w = 0b100 then .ok (.blt (fieldRs1 w) (fieldRs2 w) (immB w))
  else if fieldFunct3 w = 0b101 then .ok (.bge (fieldRs1 w) (fieldRs2 w) (immB w))
  else if fieldFunct3 w = 0b110 then .ok (.bltu (fieldRs1 w) (fieldRs2 w) (immB w))
  else if fieldFunct3 w = 0b111 then .ok (.bgeu (fieldRs1 w) (fieldRs2 w) (immB w))
  else .error (.unknownFunct3 (fieldOpcode w) (fieldFunct3 w))

/-- JALR: only `funct3 = 000` (R77). -/
def decodeJalr (w : Word) : Except DecodeError Instr :=
  if fieldFunct3 w = 0b000 then .ok (.jalr (fieldRd w) (fieldRs1 w) (immI w))
  else .error (.unknownFunct3 (fieldOpcode w) (fieldFunct3 w))

/-- SYSTEM: ECALL is the one word `0x00000073` (R78). -/
def decodeSystem (w : Word) : Except DecodeError Instr :=
  if w = 0x00000073 then .ok .ecall else .error (.unknownSystem w)

/-- The dispatch table: from the opcode to the family's decoder (R70, R76); every other opcode is a decode
fault (R79). -/
def decode (w : Word) : Except DecodeError Instr :=
  if fieldOpcode w = 0b0110011 then decodeOp w
  else if fieldOpcode w = 0b0010011 then decodeOpImm w
  else if fieldOpcode w = 0b0000011 then decodeLoad w
  else if fieldOpcode w = 0b0100011 then decodeStore w
  else if fieldOpcode w = 0b1100011 then decodeBranch w
  else if fieldOpcode w = 0b0110111 then .ok (.lui (fieldRd w) (immU w))
  else if fieldOpcode w = 0b0010111 then .ok (.auipc (fieldRd w) (immU w))
  else if fieldOpcode w = 0b1101111 then .ok (.jal (fieldRd w) (immJ w))
  else if fieldOpcode w = 0b1100111 then decodeJalr w
  else if fieldOpcode w = 0b1110011 then decodeSystem w
  else .error (.unknownOpcode (fieldOpcode w))

/-! ## The image's bytes

"treated as a little-endian sequence of 32-bit words" (R31, R50). -/

/-- A word from its four bytes, lowest address first (R50). -/
def wordOfBytes (b0 b1 b2 b3 : Byte) : Word := b3 ++ b2 ++ b1 ++ b0

/-- The four bytes of a word as the image file holds them, lowest address first (R50). -/
def bytesOfWord (w : Word) : List Byte :=
  [w.extractLsb' 0 8, w.extractLsb' 8 8, w.extractLsb' 16 8, w.extractLsb' 24 8]

/-- The first instruction of a list of image bytes, with the bytes left over. -/
def decodeBytes : List Byte → Except DecodeError (Instr × List Byte)
  | b0 :: b1 :: b2 :: b3 :: rest => (decode (wordOfBytes b0 b1 b2 b3)).map fun i => (i, rest)
  | _ => .error .truncated

/-- The image a byte file stands for: whole words only; a file of another length never starts the block
(R31, R50; `93_implementation_defined.md` row 20). -/
def imageOfBytes : List Byte → Option (List Word)
  | [] => some []
  | b0 :: b1 :: b2 :: b3 :: rest => (imageOfBytes rest).map fun ws => wordOfBytes b0 b1 b2 b3 :: ws
  | _ => none

/-- The instruction whose bits are `w`, numbered as `opcode_table.json` numbers them; every bit from `nbits`
up is 0. -/
def decodeTableWord (nbits w : Nat) : Option Instr :=
  match decodeBytes (bytesOfWord (BitVec.ofNat 32 (w % 2 ^ nbits))) with
  | .ok (i, _) => some i
  | .error _ => none

/-! ## Encode (R61, R62) -/

def encodeR (funct7 : BitVec 7) (rs2 rs1 : RegIdx) (funct3 : BitVec 3) (rd : RegIdx) (opcode : BitVec 7) : Word :=
  funct7 ++ rs2 ++ rs1 ++ funct3 ++ rd ++ opcode

def encodeI (imm : BitVec 12) (rs1 : RegIdx) (funct3 : BitVec 3) (rd : RegIdx) (opcode : BitVec 7) : Word :=
  imm ++ rs1 ++ funct3 ++ rd ++ opcode

def encodeS (imm : BitVec 12) (rs2 rs1 : RegIdx) (funct3 : BitVec 3) (opcode : BitVec 7) : Word :=
  imm.extractLsb' 5 7 ++ rs2 ++ rs1 ++ funct3 ++ imm.extractLsb' 0 5 ++ opcode

def encodeB (offset : BitVec 13) (rs2 rs1 : RegIdx) (funct3 : BitVec 3) (opcode : BitVec 7) : Word :=
  offset.extractLsb' 12 1 ++ offset.extractLsb' 5 6 ++ rs2 ++ rs1 ++ funct3 ++ offset.extractLsb' 1 4
    ++ offset.extractLsb' 11 1 ++ opcode

def encodeU (imm20 : BitVec 20) (rd : RegIdx) (opcode : BitVec 7) : Word :=
  imm20 ++ rd ++ opcode

def encodeJ (offset : BitVec 21) (rd : RegIdx) (opcode : BitVec 7) : Word :=
  offset.extractLsb' 20 1 ++ offset.extractLsb' 1 10 ++ offset.extractLsb' 11 1 ++ offset.extractLsb' 12 8
    ++ rd ++ opcode

/-- The word of an instruction. An odd branch or jump offset has no encoding (`Instr.wellFormed`); its bit 0 is
dropped. -/
def encode : Instr → Word
  | .add rd rs1 rs2 => encodeR 0b0000000 rs2 rs1 0b000 rd 0b0110011
  | .sub rd rs1 rs2 => encodeR 0b0100000 rs2 rs1 0b000 rd 0b0110011
  | .sll rd rs1 rs2 => encodeR 0b0000000 rs2 rs1 0b001 rd 0b0110011
  | .slt rd rs1 rs2 => encodeR 0b0000000 rs2 rs1 0b010 rd 0b0110011
  | .sltu rd rs1 rs2 => encodeR 0b0000000 rs2 rs1 0b011 rd 0b0110011
  | .xor rd rs1 rs2 => encodeR 0b0000000 rs2 rs1 0b100 rd 0b0110011
  | .srl rd rs1 rs2 => encodeR 0b0000000 rs2 rs1 0b101 rd 0b0110011
  | .sra rd rs1 rs2 => encodeR 0b0100000 rs2 rs1 0b101 rd 0b0110011
  | .or rd rs1 rs2 => encodeR 0b0000000 rs2 rs1 0b110 rd 0b0110011
  | .and rd rs1 rs2 => encodeR 0b0000000 rs2 rs1 0b111 rd 0b0110011
  | .mul rd rs1 rs2 => encodeR 0b0000001 rs2 rs1 0b000 rd 0b0110011
  | .mulh rd rs1 rs2 => encodeR 0b0000001 rs2 rs1 0b001 rd 0b0110011
  | .mulhsu rd rs1 rs2 => encodeR 0b0000001 rs2 rs1 0b010 rd 0b0110011
  | .mulhu rd rs1 rs2 => encodeR 0b0000001 rs2 rs1 0b011 rd 0b0110011
  | .div rd rs1 rs2 => encodeR 0b0000001 rs2 rs1 0b100 rd 0b0110011
  | .divu rd rs1 rs2 => encodeR 0b0000001 rs2 rs1 0b101 rd 0b0110011
  | .rem rd rs1 rs2 => encodeR 0b0000001 rs2 rs1 0b110 rd 0b0110011
  | .remu rd rs1 rs2 => encodeR 0b0000001 rs2 rs1 0b111 rd 0b0110011
  | .addi rd rs1 imm => encodeI imm rs1 0b000 rd 0b0010011
  | .slti rd rs1 imm => encodeI imm rs1 0b010 rd 0b0010011
  | .sltiu rd rs1 imm => encodeI imm rs1 0b011 rd 0b0010011
  | .xori rd rs1 imm => encodeI imm rs1 0b100 rd 0b0010011
  | .ori rd rs1 imm => encodeI imm rs1 0b110 rd 0b0010011
  | .andi rd rs1 imm => encodeI imm rs1 0b111 rd 0b0010011
  | .slli rd rs1 shamt => encodeR 0b0000000 shamt rs1 0b001 rd 0b0010011
  | .srli rd rs1 shamt => encodeR 0b0000000 shamt rs1 0b101 rd 0b0010011
  | .srai rd rs1 shamt => encodeR 0b0100000 shamt rs1 0b101 rd 0b0010011
  | .lb rd rs1 imm => encodeI imm rs1 0b000 rd 0b0000011
  | .lh rd rs1 imm => encodeI imm rs1 0b001 rd 0b0000011
  | .lw rd rs1 imm => encodeI imm rs1 0b010 rd 0b0000011
  | .lbu rd rs1 imm => encodeI imm rs1 0b100 rd 0b0000011
  | .lhu rd rs1 imm => encodeI imm rs1 0b101 rd 0b0000011
  | .sb rs2 rs1 imm => encodeS imm rs2 rs1 0b000 0b0100011
  | .sh rs2 rs1 imm => encodeS imm rs2 rs1 0b001 0b0100011
  | .sw rs2 rs1 imm => encodeS imm rs2 rs1 0b010 0b0100011
  | .beq rs1 rs2 offset => encodeB offset rs2 rs1 0b000 0b1100011
  | .bne rs1 rs2 offset => encodeB offset rs2 rs1 0b001 0b1100011
  | .blt rs1 rs2 offset => encodeB offset rs2 rs1 0b100 0b1100011
  | .bge rs1 rs2 offset => encodeB offset rs2 rs1 0b101 0b1100011
  | .bltu rs1 rs2 offset => encodeB offset rs2 rs1 0b110 0b1100011
  | .bgeu rs1 rs2 offset => encodeB offset rs2 rs1 0b111 0b1100011
  | .lui rd imm20 => encodeU imm20 rd 0b0110111
  | .auipc rd imm20 => encodeU imm20 rd 0b0010111
  | .jal rd offset => encodeJ offset rd 0b1101111
  | .jalr rd rs1 imm => encodeI imm rs1 0b000 rd 0b1100111
  | .ecall => encodeI 0 0 0b000 0 0b1110011

/-! ## The opcode table -/

/-- A row of `opcode_table.json`: a word is the row's instruction when its bits under `mask` are `value`. -/
structure TableRow where
  mnemonic : String
  value : Word
  mask : Word
deriving DecidableEq, Repr

/-- The rows of OP (R71). -/
def opRows : List TableRow := [
  ⟨"ADD", 0x00000033, 0xfe00707f⟩,
  ⟨"SUB", 0x40000033, 0xfe00707f⟩,
  ⟨"SLL", 0x00001033, 0xfe00707f⟩,
  ⟨"SLT", 0x00002033, 0xfe00707f⟩,
  ⟨"SLTU", 0x00003033, 0xfe00707f⟩,
  ⟨"XOR", 0x00004033, 0xfe00707f⟩,
  ⟨"SRL", 0x00005033, 0xfe00707f⟩,
  ⟨"SRA", 0x40005033, 0xfe00707f⟩,
  ⟨"OR", 0x00006033, 0xfe00707f⟩,
  ⟨"AND", 0x00007033, 0xfe00707f⟩,
  ⟨"MUL", 0x02000033, 0xfe00707f⟩,
  ⟨"MULH", 0x02001033, 0xfe00707f⟩,
  ⟨"MULHSU", 0x02002033, 0xfe00707f⟩,
  ⟨"MULHU", 0x02003033, 0xfe00707f⟩,
  ⟨"DIV", 0x02004033, 0xfe00707f⟩,
  ⟨"DIVU", 0x02005033, 0xfe00707f⟩,
  ⟨"REM", 0x02006033, 0xfe00707f⟩,
  ⟨"REMU", 0x02007033, 0xfe00707f⟩]

/-- The rows of OP-IMM (R72). -/
def opImmRows : List TableRow := [
  ⟨"ADDI", 0x00000013, 0x0000707f⟩,
  ⟨"SLTI", 0x00002013, 0x0000707f⟩,
  ⟨"SLTIU", 0x00003013, 0x0000707f⟩,
  ⟨"XORI", 0x00004013, 0x0000707f⟩,
  ⟨"ORI", 0x00006013, 0x0000707f⟩,
  ⟨"ANDI", 0x00007013, 0x0000707f⟩,
  ⟨"SLLI", 0x00001013, 0xfe00707f⟩,
  ⟨"SRLI", 0x00005013, 0xfe00707f⟩,
  ⟨"SRAI", 0x40005013, 0xfe00707f⟩]

/-- The rows of LOAD and STORE (R73, R74). -/
def memoryRows : List TableRow := [
  ⟨"LB", 0x00000003, 0x0000707f⟩,
  ⟨"LH", 0x00001003, 0x0000707f⟩,
  ⟨"LW", 0x00002003, 0x0000707f⟩,
  ⟨"LBU", 0x00004003, 0x0000707f⟩,
  ⟨"LHU", 0x00005003, 0x0000707f⟩,
  ⟨"SB", 0x00000023, 0x0000707f⟩,
  ⟨"SH", 0x00001023, 0x0000707f⟩,
  ⟨"SW", 0x00002023, 0x0000707f⟩]

/-- The rows of BRANCH, LUI, AUIPC, JAL, JALR and SYSTEM (R75 to R78). -/
def controlRows : List TableRow := [
  ⟨"BEQ", 0x00000063, 0x0000707f⟩,
  ⟨"BNE", 0x00001063, 0x0000707f⟩,
  ⟨"BLT", 0x00004063, 0x0000707f⟩,
  ⟨"BGE", 0x00005063, 0x0000707f⟩,
  ⟨"BLTU", 0x00006063, 0x0000707f⟩,
  ⟨"BGEU", 0x00007063, 0x0000707f⟩,
  ⟨"LUI", 0x00000037, 0x0000007f⟩,
  ⟨"AUIPC", 0x00000017, 0x0000007f⟩,
  ⟨"JAL", 0x0000006f, 0x0000007f⟩,
  ⟨"JALR", 0x00000067, 0x0000707f⟩,
  ⟨"ECALL", 0x00000073, 0xffffffff⟩]

/-- All 46 rows of `opcode_table.json`. -/
def opcodeTable : List TableRow := opRows ++ opImmRows ++ memoryRows ++ controlRows

end Sys2Proof
end

