-- ==== Sys2Proof/Machine/Fetch.lean ====
section
/-! DEFINITION. Fetch and decode, the first two stages of a step (R59, R79, R290, R322). -/

namespace Sys2Proof.Machine

/-- `Fetch(pc)`: the word at the pc, or the outcome that ends the run (R59). -/
def State.fetch (s : State) : Except RunStatus Word :=
  if h : s.pc.toNat % 4 = 0 ∧ s.pc.toNat / 4 < s.imem.length then .ok (s.imem[s.pc.toNat / 4]'h.2)
  else if s.pc.toNat = 4 * s.imem.length then .error .endOfProgram
  else .error (.addressingFault .fetch s.pc)

/-- Fetch, then decode: the instruction to execute, or the outcome that ends the run (R290, R322). -/
def State.fetchInstr (s : State) : Except RunStatus Instr :=
  match s.fetch with
  | .error o => .error o
  | .ok w =>
    match decode w with
    | .error _ => .error (.decodeFault w)
    | .ok i => .ok i

end Sys2Proof.Machine
end

