-- ==== Sys2Proof/Machine/Step.lean ====
section
/-! DEFINITION. One step (R322), and the placing of one word where the next step fetches. -/

namespace Sys2Proof.Machine

/-- One step, "executed only while `status = Running`": fetch, decode, execute; an outcome of fetch or decode
ends the run with no other effect (R322, R287). -/
def step (s : State) : Host.Outcome State Fault Refusal :=
  if s.status.isRunning then
    match s.fetchInstr with
    | .error o => .next (s.terminate o)
    | .ok i => exec i s
  else .fault (.runEnded s.status)

/-- `s` with the word whose bits are `w` at the place the next step fetches from: the image gets as many words
as that takes, the pc is a fetchable address (unchanged where it is one) and the run is not over (log 4). -/
def State.withFetchWord (s : State) (nbits w : Nat) : State :=
  { s with
    pc := BitVec.ofNat 32 (4 * (s.pc.toNat / 4))
    status := .running
    imem := (s.imem ++ List.replicate (s.pc.toNat / 4 + 1 - s.imem.length) 0).set (s.pc.toNat / 4)
      (BitVec.ofNat 32 (w % 2 ^ nbits)) }

end Sys2Proof.Machine
end

