-- ==== Sys2Proof/Machine/Report.lean ====
section
/-! DEFINITION. What the host sees when a run has ended: the register dump (R288) and the process exit status
(R289). Both are functions of the state; nothing in the block depends on them. -/

namespace Sys2Proof.Machine

/-- The four bytes of a register, least significant first (R288, R50). -/
def regBytes (v : Word) : List Byte := [byteOf v 0, byteOf v 1, byteOf v 2, byteOf v 3]

/-- The register file as "32 little-endian 32-bit words, 128 bytes total", `x0` first (R288). -/
def State.registerDump (s : State) : List Byte :=
  (List.range 32).flatMap fun i => regBytes (s.readReg (BitVec.ofNat 5 i))

/-- `dump`: produced at every termination, and not before (R288, R300). -/
def State.dump (s : State) : Option (List Byte) :=
  if s.status.isRunning then none else some s.registerDump

/-- The exit status of a decode fault: any nonzero number (R289; log 6). -/
def decodeFaultStatus : Nat := Config.freeStatus 0 + 1

/-- The exit status of an addressing fault: any nonzero number but the decode fault's (R289; log 6). -/
def addressingFaultStatus : Nat :=
  if Config.freeStatus 1 + 1 < decodeFaultStatus then Config.freeStatus 1 + 1 else Config.freeStatus 1 + 2

/-- Numbers from `u` up, leaving `t` out: the `u`-th number that is not `t`. -/
def skipping (t u : Nat) : Nat := if u < t then u else u + 1

/-- The exit status of an unsupported system call: any nonzero number but the other two (R289; log 6). -/
def unsupportedSyscallStatus : Nat :=
  skipping (max decodeFaultStatus addressingFaultStatus)
    (skipping (min decodeFaultStatus addressingFaultStatus) (Config.freeStatus 2 + 1))

/-- The exit status of a clean end of program: any number (R289; log 6). -/
def endOfProgramStatus : Nat := Config.freeStatus 3

/-- `STATUS_OF`: a halt reports its code whole; a run that goes on reports nothing (R289, R300). -/
def exitStatus : RunStatus → Option Nat
  | .running => none
  | .halted c => some c.toNat
  | .endOfProgram => some endOfProgramStatus
  | .decodeFault _ => some decodeFaultStatus
  | .addressingFault _ _ => some addressingFaultStatus
  | .unsupportedSyscall _ => some unsupportedSyscallStatus

end Sys2Proof.Machine
end

