-- ==== Sys2Proof/Safety.lean ====
section
/-! DEFINITION. The terms claims are stated in: the invariant of a state, the outcomes that count as normal
or as faults, which registers and store bytes an instruction names, and what "the only change" means. -/

namespace Sys2Proof.Machine

/-! ## The invariant -/

/-- A state as the spec describes it: the store in canonical form and inside `[0, CAPACITY)` (R32), the image
of at most `2^30` words (R7). -/
abbrev State.Inv (s : State) : Prop :=
  s.store.wf ∧ (∀ c ∈ s.store, c.1 < s.params.capacity) ∧ s.imem.length ≤ 2 ^ 30

/-! ## Safe runs -/

/-- The three fatal outcomes (R280, R283 to R285). -/
def RunStatus.isFault : RunStatus → Bool
  | .running => false
  | .halted _ => false
  | .endOfProgram => false
  | .decodeFault _ => true
  | .addressingFault _ _ => true
  | .unsupportedSyscall _ => true

/-- A step is safe when it stops with no fault of the model and no fatal outcome of the block. -/
def SafeStep (s : State) : Prop := ∃ t, step s = .next t ∧ t.status.isFault = false

/-- `w` is the word the next step executes (R59). -/
def FetchesWord (s : State) (w : Word) : Prop :=
  s.pc.toNat % 4 = 0 ∧ s.imem[s.pc.toNat / 4]? = some w

/-- `i` is the instruction the next step executes (R322). -/
def FetchesInstr (s : State) (i : Instr) : Prop := ∃ w, FetchesWord s w ∧ decode w = .ok i

/-- `w` is an instruction of `opcode_table.json`. -/
def InOpcodeTable (w : Word) : Prop := ∃ row ∈ opcodeTable, w &&& row.mask = row.value

/-! ## What an instruction names -/

/-- The register an instruction writes, from the table of R23. -/
def destReg : Instr → Option RegIdx
  | .add rd _ _ => some rd
  | .sub rd _ _ => some rd
  | .sll rd _ _ => some rd
  | .slt rd _ _ => some rd
  | .sltu rd _ _ => some rd
  | .xor rd _ _ => some rd
  | .srl rd _ _ => some rd
  | .sra rd _ _ => some rd
  | .or rd _ _ => some rd
  | .and rd _ _ => some rd
  | .mul rd _ _ => some rd
  | .mulh rd _ _ => some rd
  | .mulhsu rd _ _ => some rd
  | .mulhu rd _ _ => some rd
  | .div rd _ _ => some rd
  | .divu rd _ _ => some rd
  | .rem rd _ _ => some rd
  | .remu rd _ _ => some rd
  | .addi rd _ _ => some rd
  | .slti rd _ _ => some rd
  | .sltiu rd _ _ => some rd
  | .xori rd _ _ => some rd
  | .ori rd _ _ => some rd
  | .andi rd _ _ => some rd
  | .slli rd _ _ => some rd
  | .srli rd _ _ => some rd
  | .srai rd _ _ => some rd
  | .lb rd _ _ => some rd
  | .lh rd _ _ => some rd
  | .lw rd _ _ => some rd
  | .lbu rd _ _ => some rd
  | .lhu rd _ _ => some rd
  | .sb _ _ _ => none
  | .sh _ _ _ => none
  | .sw _ _ _ => none
  | .beq _ _ _ => none
  | .bne _ _ _ => none
  | .blt _ _ _ => none
  | .bge _ _ _ => none
  | .bltu _ _ _ => none
  | .bgeu _ _ _ => none
  | .lui rd _ => some rd
  | .auipc rd _ => some rd
  | .jal rd _ => some rd
  | .jalr rd _ _ => some rd
  | .ecall => none

/-- The registers an instruction reads, from the table of R23. -/
def sourceRegs : Instr → State → List RegIdx
  | .add _ rs1 rs2, _ => [rs1, rs2]
  | .sub _ rs1 rs2, _ => [rs1, rs2]
  | .sll _ rs1 rs2, _ => [rs1, rs2]
  | .slt _ rs1 rs2, _ => [rs1, rs2]
  | .sltu _ rs1 rs2, _ => [rs1, rs2]
  | .xor _ rs1 rs2, _ => [rs1, rs2]
  | .srl _ rs1 rs2, _ => [rs1, rs2]
  | .sra _ rs1 rs2, _ => [rs1, rs2]
  | .or _ rs1 rs2, _ => [rs1, rs2]
  | .and _ rs1 rs2, _ => [rs1, rs2]
  | .mul _ rs1 rs2, _ => [rs1, rs2]
  | .mulh _ rs1 rs2, _ => [rs1, rs2]
  | .mulhsu _ rs1 rs2, _ => [rs1, rs2]
  | .mulhu _ rs1 rs2, _ => [rs1, rs2]
  | .div _ rs1 rs2, _ => [rs1, rs2]
  | .divu _ rs1 rs2, _ => [rs1, rs2]
  | .rem _ rs1 rs2, _ => [rs1, rs2]
  | .remu _ rs1 rs2, _ => [rs1, rs2]
  | .addi _ rs1 _, _ => [rs1]
  | .slti _ rs1 _, _ => [rs1]
  | .sltiu _ rs1 _, _ => [rs1]
  | .xori _ rs1 _, _ => [rs1]
  | .ori _ rs1 _, _ => [rs1]
  | .andi _ rs1 _, _ => [rs1]
  | .slli _ rs1 _, _ => [rs1]
  | .srli _ rs1 _, _ => [rs1]
  | .srai _ rs1 _, _ => [rs1]
  | .lb _ rs1 _, _ => [rs1]
  | .lh _ rs1 _, _ => [rs1]
  | .lw _ rs1 _, _ => [rs1]
  | .lbu _ rs1 _, _ => [rs1]
  | .lhu _ rs1 _, _ => [rs1]
  | .sb rs2 rs1 _, _ => [rs1, rs2]
  | .sh rs2 rs1 _, _ => [rs1, rs2]
  | .sw rs2 rs1 _, _ => [rs1, rs2]
  | .beq rs1 rs2 _, _ => [rs1, rs2]
  | .bne rs1 rs2 _, _ => [rs1, rs2]
  | .blt rs1 rs2 _, _ => [rs1, rs2]
  | .bge rs1 rs2 _, _ => [rs1, rs2]
  | .bltu rs1 rs2 _, _ => [rs1, rs2]
  | .bgeu rs1 rs2 _, _ => [rs1, rs2]
  | .lui _ _, _ => []
  | .auipc _ _, _ => []
  | .jal _ _, _ => []
  | .jalr _ rs1 _, _ => [rs1]
  | .ecall, s => if s.readReg 10#5 = 17#32 then [10#5, 11#5] else [10#5]

/-- A load's width in bytes, base register and offset (R161 to R165). -/
def loadAccess : Instr → Option (Nat × RegIdx × BitVec 12)
  | .add _ _ _ => none
  | .sub _ _ _ => none
  | .sll _ _ _ => none
  | .slt _ _ _ => none
  | .sltu _ _ _ => none
  | .xor _ _ _ => none
  | .srl _ _ _ => none
  | .sra _ _ _ => none
  | .or _ _ _ => none
  | .and _ _ _ => none
  | .mul _ _ _ => none
  | .mulh _ _ _ => none
  | .mulhsu _ _ _ => none
  | .mulhu _ _ _ => none
  | .div _ _ _ => none
  | .divu _ _ _ => none
  | .rem _ _ _ => none
  | .remu _ _ _ => none
  | .addi _ _ _ => none
  | .slti _ _ _ => none
  | .sltiu _ _ _ => none
  | .xori _ _ _ => none
  | .ori _ _ _ => none
  | .andi _ _ _ => none
  | .slli _ _ _ => none
  | .srli _ _ _ => none
  | .srai _ _ _ => none
  | .lb _ rs1 imm => some (1, rs1, imm)
  | .lh _ rs1 imm => some (2, rs1, imm)
  | .lw _ rs1 imm => some (4, rs1, imm)
  | .lbu _ rs1 imm => some (1, rs1, imm)
  | .lhu _ rs1 imm => some (2, rs1, imm)
  | .sb _ _ _ => none
  | .sh _ _ _ => none
  | .sw _ _ _ => none
  | .beq _ _ _ => none
  | .bne _ _ _ => none
  | .blt _ _ _ => none
  | .bge _ _ _ => none
  | .bltu _ _ _ => none
  | .bgeu _ _ _ => none
  | .lui _ _ => none
  | .auipc _ _ => none
  | .jal _ _ => none
  | .jalr _ _ _ => none
  | .ecall => none

/-- A store's width in bytes, data register, base register and offset (R181 to R183). -/
def storeAccess : Instr → Option (Nat × RegIdx × RegIdx × BitVec 12)
  | .add _ _ _ => none
  | .sub _ _ _ => none
  | .sll _ _ _ => none
  | .slt _ _ _ => none
  | .sltu _ _ _ => none
  | .xor _ _ _ => none
  | .srl _ _ _ => none
  | .sra _ _ _ => none
  | .or _ _ _ => none
  | .and _ _ _ => none
  | .mul _ _ _ => none
  | .mulh _ _ _ => none
  | .mulhsu _ _ _ => none
  | .mulhu _ _ _ => none
  | .div _ _ _ => none
  | .divu _ _ _ => none
  | .rem _ _ _ => none
  | .remu _ _ _ => none
  | .addi _ _ _ => none
  | .slti _ _ _ => none
  | .sltiu _ _ _ => none
  | .xori _ _ _ => none
  | .ori _ _ _ => none
  | .andi _ _ _ => none
  | .slli _ _ _ => none
  | .srli _ _ _ => none
  | .srai _ _ _ => none
  | .lb _ _ _ => none
  | .lh _ _ _ => none
  | .lw _ _ _ => none
  | .lbu _ _ _ => none
  | .lhu _ _ _ => none
  | .sb rs2 rs1 imm => some (1, rs2, rs1, imm)
  | .sh rs2 rs1 imm => some (2, rs2, rs1, imm)
  | .sw rs2 rs1 imm => some (4, rs2, rs1, imm)
  | .beq _ _ _ => none
  | .bne _ _ _ => none
  | .blt _ _ _ => none
  | .bge _ _ _ => none
  | .bltu _ _ _ => none
  | .bgeu _ _ _ => none
  | .lui _ _ => none
  | .auipc _ _ => none
  | .jal _ _ => none
  | .jalr _ _ _ => none
  | .ecall => none

/-- The instructions that can send the pc elsewhere than `pc + 4` (R26). -/
def redirects : Instr → Bool
  | .add _ _ _ => false
  | .sub _ _ _ => false
  | .sll _ _ _ => false
  | .slt _ _ _ => false
  | .sltu _ _ _ => false
  | .xor _ _ _ => false
  | .srl _ _ _ => false
  | .sra _ _ _ => false
  | .or _ _ _ => false
  | .and _ _ _ => false
  | .mul _ _ _ => false
  | .mulh _ _ _ => false
  | .mulhsu _ _ _ => false
  | .mulhu _ _ _ => false
  | .div _ _ _ => false
  | .divu _ _ _ => false
  | .rem _ _ _ => false
  | .remu _ _ _ => false
  | .addi _ _ _ => false
  | .slti _ _ _ => false
  | .sltiu _ _ _ => false
  | .xori _ _ _ => false
  | .ori _ _ _ => false
  | .andi _ _ _ => false
  | .slli _ _ _ => false
  | .srli _ _ _ => false
  | .srai _ _ _ => false
  | .lb _ _ _ => false
  | .lh _ _ _ => false
  | .lw _ _ _ => false
  | .lbu _ _ _ => false
  | .lhu _ _ _ => false
  | .sb _ _ _ => false
  | .sh _ _ _ => false
  | .sw _ _ _ => false
  | .beq _ _ _ => true
  | .bne _ _ _ => true
  | .blt _ _ _ => true
  | .bge _ _ _ => true
  | .bltu _ _ _ => true
  | .bgeu _ _ _ => true
  | .lui _ _ => false
  | .auipc _ _ => false
  | .jal _ _ => true
  | .jalr _ _ _ => true
  | .ecall => false

/-- The physical indices the instruction would store to in this state: none but for a store (R45). -/
def storedIndices (i : Instr) (s : State) : List Int :=
  match storeAccess i with
  | none => []
  | some (n, _, rs1, imm) => writeIndices s.params (s.effectiveAddress rs1 imm) n

/-- The byte of the store at a logical address, `ℓ = CAPACITY − j` (R48). -/
def State.logicalByte (s : State) (address : Int) : Byte :=
  s.store.read ((s.params.capacity : Int) - address).toNat

/-- The byte the next step puts at index `j`, if it stores there: byte `k` of the data goes to `i − k` (R45, R46). -/
def storeEffect (s : State) (j : Nat) : Option Byte :=
  match s.fetchInstr with
  | .error _ => none
  | .ok i =>
    match storeAccess i with
    | none => none
    | some (n, rs2, rs1, imm) =>
      let js := writeIndices s.params (s.effectiveAddress rs1 imm) n
      let k := storeIndex s.params.capacity (s.effectiveAddress rs1 imm) - (j : Int)
      if indicesOk s.params js ∧ 0 ≤ k ∧ k < (n : Int) then some (byteOf (s.readReg rs2) k.toNat) else none

/-- The byte the latest store of the next `k` steps puts at index `j`, if any of them stores there. -/
def latestStore : Nat → State → Nat → Option Byte
  | 0, _, _ => none
  | k + 1, s, j =>
    match step s with
    | .next t => (latestStore k t j).or (storeEffect s j)
    | .fault _ => none
    | .refused _ => none

/-! ## What "the only change" means -/

/-- Every store byte, the image and the build are as before. -/
def SameMemories (s t : State) : Prop :=
  (∀ j, t.store.read j = s.store.read j) ∧ t.imem = s.imem ∧ t.params = s.params

/-- From `s` to `t`, `rd` takes `v` (dropped for `x0`, R21), the pc goes to `target`, and nothing else changes. -/
def WritesOnly (s t : State) (rd : RegIdx) (v target : Word) : Prop :=
  t.readReg rd = (if rd = 0#5 then 0#32 else v) ∧ (∀ r, r ≠ rd → t.readReg r = s.readReg r) ∧
    t.pc = target ∧ t.status = s.status ∧ SameMemories s t

/-- `i` completes with one register write of a value with property `P`, at `pc + 4` (R100, R140, R160). -/
def RegisterResult (i : Instr) (s : State) (rd : RegIdx) (P : Word → Prop) : Prop :=
  ∃ t v, exec i s = .next t ∧ WritesOnly s t rd v (s.pc + 4) ∧ P v

/-- `i` completes, changing nothing but the pc: by `offset` from its own address if `taken`, else by 4 (R200). -/
def BranchResult (i : Instr) (s : State) (taken : Prop) (offset : Int) : Prop :=
  ∃ t, exec i s = .next t ∧ t = { s with pc := t.pc } ∧
    (taken → (t.pc.toNat : Int) = ((s.pc.toNat : Int) + offset) % 2 ^ 32) ∧
    (¬taken → t.pc.toNat = (s.pc.toNat + 4) % 2 ^ 32)

/-- `i` completes as a store of the low `n` bytes of `v` at logical addresses `ea`, `ea + 1`, … (R48), with every
other store byte, every register, the image and the build as before, at `pc + 4`. -/
def StoreResult (i : Instr) (s : State) (ea : Word) (n : Nat) (v : Word) : Prop :=
  ∃ t, exec i s = .next t ∧
    (∀ k < n, (t.logicalByte (ea.toInt + k)).toNat = v.toNat / 2 ^ (8 * k) % 256) ∧
    (∀ j : Nat, (∀ k < n, (j : Int) ≠ (s.params.capacity : Int) - (ea.toInt + k)) → t.store.read j = s.store.read j) ∧
    (∀ r, t.readReg r = s.readReg r) ∧ t.pc = s.pc + 4 ∧ t.status = s.status ∧ t.imem = s.imem ∧ t.params = s.params

/-- `i` ends the run with `outcome`, and has no other effect (R287). -/
def EndsRun (i : Instr) (s : State) (outcome : RunStatus) : Prop :=
  exec i s = .next { s with status := outcome }

/-- A load that completes where `ok` holds, with a value with property `P`, and ends the run with
`AddressingFault(load, ea)` elsewhere (R160, R161 to R165). -/
def LoadResult (i : Instr) (s : State) (rd : RegIdx) (ea : Word) (ok : Prop) (P : Word → Prop) : Prop :=
  (ok → RegisterResult i s rd P) ∧ (¬ok → EndsRun i s (.addressingFault .load ea))

/-- A store then a load: the store at `ea` completes, and after it every load form `mk` whose effective address is
`ea + shift` completes and gives `v` (R49). -/
def StoreThenLoad (st : Instr) (s : State) (mk : RegIdx → RegIdx → BitVec 12 → Instr) (ea shift v : Word) : Prop :=
  ∃ t, exec st s = .next t ∧ t.status = s.status ∧
    ∀ (rd base : RegIdx) (offset : BitVec 12), t.readReg base + offset.signExtend 32 = ea + shift →
      ∃ u, exec (mk rd base offset) t = .next u ∧ WritesOnly t u rd v (t.pc + 4)

/-! ## Which words are an instruction, field by field (R61, R71 to R75) -/

/-- The words `funct7 / funct3 / 0110011` are `mk rd rs1 rs2`. -/
def DecodesOp (funct7 : BitVec 7) (funct3 : BitVec 3) (mk : RegIdx → RegIdx → RegIdx → Instr) : Prop :=
  ∀ w : Word, w.extractLsb' 0 7 = 0b0110011#7 → w.extractLsb' 12 3 = funct3 → w.extractLsb' 25 7 = funct7 →
    decode w = .ok (mk (w.extractLsb' 7 5) (w.extractLsb' 15 5) (w.extractLsb' 20 5))

/-- The words `imm / funct3 / opcode` of the I format are `mk rd rs1 imm`. -/
def DecodesI (opcode : BitVec 7) (funct3 : BitVec 3) (mk : RegIdx → RegIdx → BitVec 12 → Instr) : Prop :=
  ∀ w : Word, w.extractLsb' 0 7 = opcode → w.extractLsb' 12 3 = funct3 →
    decode w = .ok (mk (w.extractLsb' 7 5) (w.extractLsb' 15 5) (w.extractLsb' 20 12))

/-- The words `upper / shamt / funct3 / 0010011` are `mk rd rs1 shamt`. -/
def DecodesShift (upper : BitVec 7) (funct3 : BitVec 3) (mk : RegIdx → RegIdx → BitVec 5 → Instr) : Prop :=
  ∀ w : Word, w.extractLsb' 0 7 = 0b0010011#7 → w.extractLsb' 12 3 = funct3 → w.extractLsb' 25 7 = upper →
    decode w = .ok (mk (w.extractLsb' 7 5) (w.extractLsb' 15 5) (w.extractLsb' 20 5))

/-- The words of STORE with this `funct3` are `mk rs2 rs1 imm`, `imm = {w[31:25], w[11:7]}`. -/
def DecodesStore (funct3 : BitVec 3) (mk : RegIdx → RegIdx → BitVec 12 → Instr) : Prop :=
  ∀ w : Word, w.extractLsb' 0 7 = 0b0100011#7 → w.extractLsb' 12 3 = funct3 →
    ∃ imm : BitVec 12, imm.toNat = 32 * (w.extractLsb' 25 7).toNat + (w.extractLsb' 7 5).toNat ∧
      decode w = .ok (mk (w.extractLsb' 20 5) (w.extractLsb' 15 5) imm)

/-- The words of BRANCH with this `funct3` are `mk rs1 rs2 offset`,
`offset = {w[31], w[7], w[30:25], w[11:8], 0}`. -/
def DecodesBranch (funct3 : BitVec 3) (mk : RegIdx → RegIdx → BitVec 13 → Instr) : Prop :=
  ∀ w : Word, w.extractLsb' 0 7 = 0b1100011#7 → w.extractLsb' 12 3 = funct3 →
    ∃ offset : BitVec 13, offset.toNat = 4096 * (w.extractLsb' 31 1).toNat + 2048 * (w.extractLsb' 7 1).toNat
        + 32 * (w.extractLsb' 25 6).toNat + 2 * (w.extractLsb' 8 4).toNat ∧
      decode w = .ok (mk (w.extractLsb' 15 5) (w.extractLsb' 20 5) offset)

end Sys2Proof.Machine
end

