-- ==== Sys2Proof/Certificates/Slice0/Obligations.lean ====
section
/-! DEFINITION. The statements about the model. Each names the rules or decisions of `spec/` it formalises. "log <n>"
is `notes/assumptions/<n>.md`. Arithmetic stands here on integers, bits on single bits, so that no statement repeats
the model's own bit-vector expressions. -/

open Sys2Proof Sys2Proof.Machine

/-! ## Encoding -/

/-- Every instruction with an even branch or jump offset decodes back from its word, every operand at every value.
The field positions are the spec's own decisions D3 to D5 (log 8). -/
def Obligations.DecodeOfEncodeGivesTheInstruction : Prop :=
  ∀ i : Instr, i.wellFormed = true → decode (encode i) = .ok i

/-- The other way: a word that decodes is the word of its instruction, so no bit of a word is ignored (the strict
decoder of D6 to D9; log 9). -/
def Obligations.EncodeOfDecodeGivesTheWord : Prop :=
  ∀ (w : Word) (i : Instr), decode w = .ok i → i.wellFormed = true ∧ encode i = w

/-- A word is an instruction exactly if it matches a row of `opcode_table.json`, and then it is that row's (R2,
D2 to D10; log 8, 9). -/
def Obligations.DecodeAgreesWithOpcodeTable : Prop :=
  (∀ (w : Word) (i : Instr), decode w = .ok i →
    ∃ row ∈ opcodeTable, row.mnemonic = i.mnemonic ∧ w &&& row.mask = row.value) ∧
  (∀ w : Word, ∀ row ∈ opcodeTable, w &&& row.mask = row.value →
    ∃ i, decode w = .ok i ∧ i.mnemonic = row.mnemonic)

/-- Words written out in `95_test_vectors.md`, one or more of each format, decode as that file says. -/
def Obligations.SampleWordsDecodeAsWritten : Prop :=
  decode 0x002081B3 = .ok (.add 3 1 2) ∧ decode 0x4020D1B3 = .ok (.sra 3 1 2) ∧
  decode 0x0220A1B3 = .ok (.mulhsu 3 1 2) ∧ decode 0xFFF10093 = .ok (.addi 1 2 0xFFF) ∧
  decode 0x40415093 = .ok (.srai 1 2 4) ∧ decode 0x00115403 = .ok (.lhu 8 2 1) ∧
  decode 0xFE512E23 = .ok (.sw 5 2 0xFFC) ∧ decode 0xFE734CE3 = .ok (.blt 6 7 0x1FF8) ∧
  decode 0x123452B7 = .ok (.lui 5 0x12345) ∧ decode 0xFFFFF297 = .ok (.auipc 5 0xFFFFF) ∧
  decode 0xFF9FF0EF = .ok (.jal 1 0x1FFFF8) ∧ decode 0x008282E7 = .ok (.jalr 5 5 8) ∧
  decode 0x00000073 = .ok .ecall

/-- Signed immediates (R69): the assembled sign bit counts negative, so the word is the two's-complement value; branch
and jump offsets are multiples of 2; a shift amount is the I-immediate's low 5 bits. Where the fragments lie in the word
is the spec's own decision D5 (log 8). -/
def Obligations.ImmediatesExtendTheirSignBit : Prop :=
  (∀ w : Word,
    (immWord (immI w)).toInt = (w.toNat / 2 ^ 20 % 2 ^ 11 : Nat) - (w.toNat / 2 ^ 31 * 2 ^ 11 : Nat) ∧
    (immWord (immS w)).toInt =
      (w.toNat / 2 ^ 25 % 2 ^ 6 * 32 + w.toNat / 2 ^ 7 % 2 ^ 5 : Nat) - (w.toNat / 2 ^ 31 * 2 ^ 11 : Nat) ∧
    (branchWord (immB w)).toInt =
      (w.toNat / 2 ^ 7 % 2 * 2048 + w.toNat / 2 ^ 25 % 2 ^ 6 * 32 + w.toNat / 2 ^ 8 % 2 ^ 4 * 2 : Nat)
        - (w.toNat / 2 ^ 31 * 4096 : Nat) ∧
    (jumpWord (immJ w)).toInt =
      (w.toNat / 2 ^ 12 % 2 ^ 8 * 4096 + w.toNat / 2 ^ 20 % 2 * 2048 + w.toNat / 2 ^ 21 % 2 ^ 10 * 2 : Nat)
        - (w.toNat / 2 ^ 31 * 2 ^ 20 : Nat) ∧
    (2 : Int) ∣ (branchWord (immB w)).toInt ∧ (2 : Int) ∣ (jumpWord (immJ w)).toInt) ∧
  (∀ (w : Word) (rd rs1 : RegIdx) (shamt : BitVec 5),
    decode w = .ok (.slli rd rs1 shamt) ∨ decode w = .ok (.srli rd rs1 shamt) ∨ decode w = .ok (.srai rd rs1 shamt) →
    shamt.toNat = (immI w).toNat % 2 ^ 5)

/-- Words whose fields no family lists do not decode, family by family: an opcode outside the ten of R70, an OP `funct7`
or `funct3` outside R71, shift-immediate upper bits outside R72, a LOAD, STORE or BRANCH `funct3` outside R73 to R75, a
JALR `funct3` other than `000` (R77), a SYSTEM word other than `0x00000073` (R78). Opcodes and field positions are D3, D4
(log 8); the strict decoder is D6 to D10 (log 9). -/
def Obligations.UnlistedFieldsDoNotDecode : Prop :=
  (∀ w : Word, w.extractLsb' 0 2 ≠ 3#2 → ∃ e, decode w = .error e) ∧
  (∀ w : Word, w.extractLsb' 0 7 = 0b1110011#7 → w ≠ 0x00000073 → ∃ e, decode w = .error e) ∧
  (∀ w : Word, w.extractLsb' 0 7 = 0b1100111#7 → w.extractLsb' 12 3 ≠ 0#3 → ∃ e, decode w = .error e) ∧
  (∀ w : Word, w.extractLsb' 0 7 = 0b0110011#7 → w.extractLsb' 25 7 ≠ 0b0000000#7 → w.extractLsb' 25 7 ≠ 0b0100000#7 →
    w.extractLsb' 25 7 ≠ 0b0000001#7 → ∃ e, decode w = .error e) ∧
  (∀ w : Word, w.extractLsb' 0 7 = 0b0110011#7 → w.extractLsb' 25 7 = 0b0100000#7 → w.extractLsb' 12 3 ≠ 0b000#3 →
    w.extractLsb' 12 3 ≠ 0b101#3 → ∃ e, decode w = .error e) ∧
  (∀ w : Word, w.extractLsb' 0 7 = 0b0010011#7 → w.extractLsb' 12 3 = 0b001#3 → w.extractLsb' 25 7 ≠ 0b0000000#7 →
    ∃ e, decode w = .error e) ∧
  (∀ w : Word, w.extractLsb' 0 7 = 0b0010011#7 → w.extractLsb' 12 3 = 0b101#3 → w.extractLsb' 25 7 ≠ 0b0000000#7 →
    w.extractLsb' 25 7 ≠ 0b0100000#7 → ∃ e, decode w = .error e) ∧
  (∀ w : Word, w.extractLsb' 0 7 = 0b0000011#7 → w.extractLsb' 12 3 ∈ [0b011#3, 0b110#3, 0b111#3] →
    ∃ e, decode w = .error e) ∧
  (∀ w : Word, w.extractLsb' 0 7 = 0b0100011#7 → 3 ≤ (w.extractLsb' 12 3).toNat → ∃ e, decode w = .error e) ∧
  (∀ w : Word, w.extractLsb' 0 7 = 0b1100011#7 → w.extractLsb' 12 3 ∈ [0b010#3, 0b011#3] → ∃ e, decode w = .error e) ∧
  (∀ w : Word, w.extractLsb' 0 7 ∉ [0b0110011#7, 0b0010011#7, 0b0000011#7, 0b0100011#7, 0b1100011#7, 0b0110111#7,
    0b0010111#7, 0b1101111#7, 0b1100111#7, 0b1110011#7] → ∃ e, decode w = .error e)

/-! ## Register-register ALU, multiply and divide -/

/-- ADD, SUB, SLL, SLT, SLTU, XOR, OR, AND (R101 to R106, R109, R110): their words, their results for every state
and every choice of registers (one register in several roles and `x0` among them), and that nothing else changes.
Opcode and field positions are D3, D4 (log 8), reads before the write D14 and wrapping sums D15 (log 10). -/
def Obligations.RegisterAluResults : Prop :=
  (DecodesOp 0b0000000 0b000 .add ∧ ∀ (s : State) (rd rs1 rs2 : RegIdx), RegisterResult (.add rd rs1 rs2) s rd fun v =>
    v.toNat = ((s.readReg rs1).toNat + (s.readReg rs2).toNat) % 2 ^ 32) ∧
  (DecodesOp 0b0100000 0b000 .sub ∧ ∀ (s : State) (rd rs1 rs2 : RegIdx), RegisterResult (.sub rd rs1 rs2) s rd fun v =>
    (v.toNat : Int) = ((s.readReg rs1).toNat - (s.readReg rs2).toNat : Int) % 2 ^ 32) ∧
  (DecodesOp 0b0000000 0b001 .sll ∧ ∀ (s : State) (rd rs1 rs2 : RegIdx), RegisterResult (.sll rd rs1 rs2) s rd fun v =>
    v.toNat = (s.readReg rs1).toNat * 2 ^ ((s.readReg rs2).toNat % 32) % 2 ^ 32) ∧
  (DecodesOp 0b0000000 0b010 .slt ∧ ∀ (s : State) (rd rs1 rs2 : RegIdx), RegisterResult (.slt rd rs1 rs2) s rd fun v =>
    v.toNat = if (s.readReg rs1).toInt < (s.readReg rs2).toInt then 1 else 0) ∧
  (DecodesOp 0b0000000 0b011 .sltu ∧ ∀ (s : State) (rd rs1 rs2 : RegIdx), RegisterResult (.sltu rd rs1 rs2) s rd fun v =>
    v.toNat = if (s.readReg rs1).toNat < (s.readReg rs2).toNat then 1 else 0) ∧
  (DecodesOp 0b0000000 0b100 .xor ∧ ∀ (s : State) (rd rs1 rs2 : RegIdx), RegisterResult (.xor rd rs1 rs2) s rd fun v =>
    ∀ k < 32, v.getLsbD k = ((s.readReg rs1).getLsbD k != (s.readReg rs2).getLsbD k)) ∧
  (DecodesOp 0b0000000 0b110 .or ∧ ∀ (s : State) (rd rs1 rs2 : RegIdx), RegisterResult (.or rd rs1 rs2) s rd fun v =>
    ∀ k < 32, v.getLsbD k = ((s.readReg rs1).getLsbD k || (s.readReg rs2).getLsbD k)) ∧
  (DecodesOp 0b0000000 0b111 .and ∧ ∀ (s : State) (rd rs1 rs2 : RegIdx), RegisterResult (.and rd rs1 rs2) s rd fun v =>
    ∀ k < 32, v.getLsbD k = ((s.readReg rs1).getLsbD k && (s.readReg rs2).getLsbD k))

/-- SRL and SRA (R107, R108). That only the low 5 bits of `x[rs2]` count is D11, reads before the write D14 (log 10);
opcode and field positions are D3, D4 (log 8). -/
def Obligations.RightShiftResults : Prop :=
  (DecodesOp 0b0000000 0b101 .srl ∧ ∀ (s : State) (rd rs1 rs2 : RegIdx), RegisterResult (.srl rd rs1 rs2) s rd fun v =>
    v.toNat = (s.readReg rs1).toNat / 2 ^ ((s.readReg rs2).toNat % 32)) ∧
  (DecodesOp 0b0100000 0b101 .sra ∧ ∀ (s : State) (rd rs1 rs2 : RegIdx), RegisterResult (.sra rd rs1 rs2) s rd fun v =>
    v.toInt = (s.readReg rs1).toInt / 2 ^ ((s.readReg rs2).toNat % 32))

/-- MUL, MULH, MULHU, DIVU, REMU (R121, R122, R124, R126, R128): the low and high words of the exact product, and
unsigned division, whose quotient by zero is the dividend. Opcode and field positions are D3, D4 (log 8), reads before
the write D14 (log 10). -/
def Obligations.MultiplyAndUnsignedDivideResults : Prop :=
  (DecodesOp 0b0000001 0b000 .mul ∧ ∀ (s : State) (rd rs1 rs2 : RegIdx), RegisterResult (.mul rd rs1 rs2) s rd fun v =>
    v.toNat = (s.readReg rs1).toNat * (s.readReg rs2).toNat % 2 ^ 32) ∧
  (DecodesOp 0b0000001 0b001 .mulh ∧ ∀ (s : State) (rd rs1 rs2 : RegIdx), RegisterResult (.mulh rd rs1 rs2) s rd fun v =>
    v.toInt = (s.readReg rs1).toInt * (s.readReg rs2).toInt / 2 ^ 32) ∧
  (DecodesOp 0b0000001 0b011 .mulhu ∧ ∀ (s : State) (rd rs1 rs2 : RegIdx), RegisterResult (.mulhu rd rs1 rs2) s rd fun v =>
    v.toNat = (s.readReg rs1).toNat * (s.readReg rs2).toNat / 2 ^ 32) ∧
  (DecodesOp 0b0000001 0b101 .divu ∧ ∀ (s : State) (rd rs1 rs2 : RegIdx), RegisterResult (.divu rd rs1 rs2) s rd fun v =>
    v.toNat = if (s.readReg rs2).toNat = 0 then (s.readReg rs1).toNat else (s.readReg rs1).toNat / (s.readReg rs2).toNat) ∧
  (DecodesOp 0b0000001 0b111 .remu ∧ ∀ (s : State) (rd rs1 rs2 : RegIdx), RegisterResult (.remu rd rs1 rs2) s rd fun v =>
    v.toNat = if (s.readReg rs2).toNat = 0 then (s.readReg rs1).toNat else (s.readReg rs1).toNat % (s.readReg rs2).toNat)

/-- MULHSU, DIV, REM. Which operand of MULHSU is signed is D13, the rounding of DIV and the sign of REM are D12
(log 10); the results at divisor 0 and for `INT_MIN / −1` are the source's. Opcode and field positions are D3, D4
(log 8). -/
def Obligations.SignedMultiplyDivideResults : Prop :=
  (DecodesOp 0b0000001 0b010 .mulhsu ∧ ∀ (s : State) (rd rs1 rs2 : RegIdx), RegisterResult (.mulhsu rd rs1 rs2) s rd fun v =>
    v.toInt = (s.readReg rs1).toInt * (s.readReg rs2).toNat / 2 ^ 32) ∧
  (DecodesOp 0b0000001 0b100 .div ∧ ∀ (s : State) (rd rs1 rs2 : RegIdx), RegisterResult (.div rd rs1 rs2) s rd fun v =>
    v.toInt = if (s.readReg rs2).toInt = 0 then -1
      else if (s.readReg rs1).toInt = -2 ^ 31 ∧ (s.readReg rs2).toInt = -1 then -2 ^ 31
      else (s.readReg rs1).toInt.tdiv (s.readReg rs2).toInt) ∧
  (DecodesOp 0b0000001 0b110 .rem ∧ ∀ (s : State) (rd rs1 rs2 : RegIdx), RegisterResult (.rem rd rs1 rs2) s rd fun v =>
    v.toInt = if (s.readReg rs2).toInt = 0 then (s.readReg rs1).toInt
      else if (s.readReg rs1).toInt = -2 ^ 31 ∧ (s.readReg rs2).toInt = -1 then 0
      else (s.readReg rs1).toInt.tmod (s.readReg rs2).toInt)

/-- The division laws (R129, derived there): dividend = quotient · divisor + remainder with a smaller remainder, for
DIV with REM and DIVU with REMU run on the same operands; and the values at divisor 0. -/
def Obligations.DivisionLaws : Prop :=
  ∀ (s : State) (rd rs1 rs2 : RegIdx), rd ≠ 0 →
    ∃ tq tr uq ur, exec (.div rd rs1 rs2) s = .next tq ∧ exec (.rem rd rs1 rs2) s = .next tr ∧
      exec (.divu rd rs1 rs2) s = .next uq ∧ exec (.remu rd rs1 rs2) s = .next ur ∧
      (s.readReg rs2 ≠ 0 →
        (s.readReg rs1).toNat = (uq.readReg rd).toNat * (s.readReg rs2).toNat + (ur.readReg rd).toNat ∧
        (ur.readReg rd).toNat < (s.readReg rs2).toNat ∧
        s.readReg rs1 = tq.readReg rd * s.readReg rs2 + tr.readReg rd ∧
        (tr.readReg rd).toInt.natAbs < (s.readReg rs2).toInt.natAbs ∧
        (¬((s.readReg rs1).toInt = -2 ^ 31 ∧ (s.readReg rs2).toInt = -1) →
          (s.readReg rs1).toInt = (tq.readReg rd).toInt * (s.readReg rs2).toInt + (tr.readReg rd).toInt)) ∧
      (s.readReg rs2 = 0 → (tq.readReg rd).toInt = -1 ∧ uq.readReg rd = s.readReg rs1 ∧
        tr.readReg rd = s.readReg rs1 ∧ ur.readReg rd = s.readReg rs1)

/-! ## Register-immediate ALU -/

/-- ADDI, SLTI, SLTIU, XORI, ORI, ANDI (R141 to R146): the immediate is sign-extended in each, also before SLTIU's
unsigned comparison. Opcode and field positions are D3 to D5 (log 8), reads before the write D14 and wrapping sums D15
(log 10). -/
def Obligations.ImmediateAluResults : Prop :=
  (DecodesI 0b0010011 0b000 .addi ∧ ∀ (s : State) (rd rs1 : RegIdx) (imm : BitVec 12),
    RegisterResult (.addi rd rs1 imm) s rd fun v => (v.toNat : Int) = ((s.readReg rs1).toNat + imm.toInt) % 2 ^ 32) ∧
  (DecodesI 0b0010011 0b010 .slti ∧ ∀ (s : State) (rd rs1 : RegIdx) (imm : BitVec 12),
    RegisterResult (.slti rd rs1 imm) s rd fun v => v.toNat = if (s.readReg rs1).toInt < imm.toInt then 1 else 0) ∧
  (DecodesI 0b0010011 0b011 .sltiu ∧ ∀ (s : State) (rd rs1 : RegIdx) (imm : BitVec 12),
    RegisterResult (.sltiu rd rs1 imm) s rd fun v =>
      v.toNat = if ((s.readReg rs1).toNat : Int) < imm.toInt % 2 ^ 32 then 1 else 0) ∧
  (DecodesI 0b0010011 0b100 .xori ∧ ∀ (s : State) (rd rs1 : RegIdx) (imm : BitVec 12),
    RegisterResult (.xori rd rs1 imm) s rd fun v =>
      ∀ k < 32, v.getLsbD k = ((s.readReg rs1).getLsbD k != imm.getLsbD (min k 11))) ∧
  (DecodesI 0b0010011 0b110 .ori ∧ ∀ (s : State) (rd rs1 : RegIdx) (imm : BitVec 12),
    RegisterResult (.ori rd rs1 imm) s rd fun v =>
      ∀ k < 32, v.getLsbD k = ((s.readReg rs1).getLsbD k || imm.getLsbD (min k 11))) ∧
  (DecodesI 0b0010011 0b111 .andi ∧ ∀ (s : State) (rd rs1 : RegIdx) (imm : BitVec 12),
    RegisterResult (.andi rd rs1 imm) s rd fun v =>
      ∀ k < 32, v.getLsbD k = ((s.readReg rs1).getLsbD k && imm.getLsbD (min k 11)))

/-- SLLI, SRLI, SRAI (R147 to R149). Which bits `w[31:25]` may hold is D7 (log 9); opcode and field positions are D3 to
D5 (log 8), reads before the write D14 (log 10). -/
def Obligations.ShiftImmediateResults : Prop :=
  (DecodesShift 0b0000000 0b001 .slli ∧ ∀ (s : State) (rd rs1 : RegIdx) (shamt : BitVec 5),
    RegisterResult (.slli rd rs1 shamt) s rd fun v => v.toNat = (s.readReg rs1).toNat * 2 ^ shamt.toNat % 2 ^ 32) ∧
  (DecodesShift 0b0000000 0b101 .srli ∧ ∀ (s : State) (rd rs1 : RegIdx) (shamt : BitVec 5),
    RegisterResult (.srli rd rs1 shamt) s rd fun v => v.toNat = (s.readReg rs1).toNat / 2 ^ shamt.toNat) ∧
  (DecodesShift 0b0100000 0b101 .srai ∧ ∀ (s : State) (rd rs1 : RegIdx) (shamt : BitVec 5),
    RegisterResult (.srai rd rs1 shamt) s rd fun v => v.toInt = (s.readReg rs1).toInt / 2 ^ shamt.toNat)

/-! ## Loads and stores -/

/-- LB, LH, LW, LBU, LHU under the default read direction (R161 to R165): byte `k` of the value comes from logical
address `ea − k`; the load completes exactly where every byte is in the store, and elsewhere ends the run with
`AddressingFault(load, ea)`, also where `rd` is `x0`. `ea = x[rs1] + imm` wraps (D15) and is read before `rd` is written
(D14; log 10); no alignment is asked (D17, log 11); all bytes are checked first (D19) and a load to `x0` still faults
(D20; log 12); opcode and field positions are D3 to D5 (log 8). -/
def Obligations.LoadsTowardIncreasingIndex : Prop :=
  (DecodesI 0b0000011 0b000 .lb ∧ DecodesI 0b0000011 0b001 .lh ∧ DecodesI 0b0000011 0b010 .lw ∧
    DecodesI 0b0000011 0b100 .lbu ∧ DecodesI 0b0000011 0b101 .lhu) ∧
  ∀ (s : State) (rd rs1 : RegIdx) (imm : BitVec 12) (ea : Word) (cap : Int) (byte : Int → Byte),
    s.params.readDirection = .increasingIndex → ea = s.readReg rs1 + imm.signExtend 32 →
    cap = s.params.capacity → (∀ k, byte k = s.logicalByte (ea.toInt - k)) →
    LoadResult (.lb rd rs1 imm) s rd ea (1 ≤ ea.toInt ∧ ea.toInt ≤ cap) (fun v => v.toInt = (byte 0).toInt) ∧
    LoadResult (.lh rd rs1 imm) s rd ea (2 ≤ ea.toInt ∧ ea.toInt ≤ cap)
      (fun v => v.toInt = (byte 0).toNat + 256 * (byte 1).toInt) ∧
    LoadResult (.lw rd rs1 imm) s rd ea (4 ≤ ea.toInt ∧ ea.toInt ≤ cap) (fun v => v.toNat =
      (byte 0).toNat + 2 ^ 8 * (byte 1).toNat + 2 ^ 16 * (byte 2).toNat + 2 ^ 24 * (byte 3).toNat) ∧
    LoadResult (.lbu rd rs1 imm) s rd ea (1 ≤ ea.toInt ∧ ea.toInt ≤ cap) (fun v => v.toNat = (byte 0).toNat) ∧
    LoadResult (.lhu rd rs1 imm) s rd ea (2 ≤ ea.toInt ∧ ea.toInt ≤ cap)
      (fun v => v.toNat = (byte 0).toNat + 256 * (byte 1).toNat)

/-- The same loads under the other reading of conflict C1, `LSU_READ_DIRECTION = decreasing_index` (D18, log 5): byte
`k` comes from logical address `ea + k`. The rest as above (D14, D15, log 10; D17, log 11; D19, D20, log 12). -/
def Obligations.LoadsTowardDecreasingIndex : Prop :=
  ∀ (s : State) (rd rs1 : RegIdx) (imm : BitVec 12) (ea : Word) (cap : Int) (byte : Int → Byte),
    s.params.readDirection = .decreasingIndex → ea = s.readReg rs1 + imm.signExtend 32 →
    cap = s.params.capacity → (∀ k, byte k = s.logicalByte (ea.toInt + k)) →
    LoadResult (.lb rd rs1 imm) s rd ea (1 ≤ ea.toInt ∧ ea.toInt ≤ cap) (fun v => v.toInt = (byte 0).toInt) ∧
    LoadResult (.lh rd rs1 imm) s rd ea (1 ≤ ea.toInt ∧ ea.toInt ≤ cap - 1)
      (fun v => v.toInt = (byte 0).toNat + 256 * (byte 1).toInt) ∧
    LoadResult (.lw rd rs1 imm) s rd ea (1 ≤ ea.toInt ∧ ea.toInt ≤ cap - 3) (fun v => v.toNat =
      (byte 0).toNat + 2 ^ 8 * (byte 1).toNat + 2 ^ 16 * (byte 2).toNat + 2 ^ 24 * (byte 3).toNat) ∧
    LoadResult (.lbu rd rs1 imm) s rd ea (1 ≤ ea.toInt ∧ ea.toInt ≤ cap) (fun v => v.toNat = (byte 0).toNat) ∧
    LoadResult (.lhu rd rs1 imm) s rd ea (1 ≤ ea.toInt ∧ ea.toInt ≤ cap - 1)
      (fun v => v.toNat = (byte 0).toNat + 256 * (byte 1).toNat)

/-- SB, SH, SW (R181 to R183): byte `k` of `x[rs2]` goes to logical address `ea + k` and nothing else changes, exactly
where every byte is in the store; elsewhere nothing is written and the run ends with `AddressingFault(store, ea)`. The
check of every byte first is D19 (log 12), the wrapping `ea` D15 (log 10), no alignment D17 (log 11); opcode and field
positions are D3 to D5 (log 8). -/
def Obligations.StoresWriteTheirBytesOnly : Prop :=
  (DecodesStore 0b000 .sb ∧ DecodesStore 0b001 .sh ∧ DecodesStore 0b010 .sw) ∧
  ∀ (s : State) (rs2 rs1 : RegIdx) (imm : BitVec 12) (ea : Word) (cap : Int),
    s.Inv → ea = s.readReg rs1 + imm.signExtend 32 → cap = s.params.capacity →
    ((1 ≤ ea.toInt ∧ ea.toInt ≤ cap → StoreResult (.sb rs2 rs1 imm) s ea 1 (s.readReg rs2)) ∧
      (¬(1 ≤ ea.toInt ∧ ea.toInt ≤ cap) → EndsRun (.sb rs2 rs1 imm) s (.addressingFault .store ea))) ∧
    ((1 ≤ ea.toInt ∧ ea.toInt ≤ cap - 1 → StoreResult (.sh rs2 rs1 imm) s ea 2 (s.readReg rs2)) ∧
      (¬(1 ≤ ea.toInt ∧ ea.toInt ≤ cap - 1) → EndsRun (.sh rs2 rs1 imm) s (.addressingFault .store ea))) ∧
    ((1 ≤ ea.toInt ∧ ea.toInt ≤ cap - 3 → StoreResult (.sw rs2 rs1 imm) s ea 4 (s.readReg rs2)) ∧
      (¬(1 ≤ ea.toInt ∧ ea.toInt ≤ cap - 3) → EndsRun (.sw rs2 rs1 imm) s (.addressingFault .store ea)))

/-- Under the default read direction a byte reads back where it was stored, and a half or word reads back reversed at
its last byte's address (R49, derived there; S-RT of `95_test_vectors.md` holds for bytes only, C1). -/
def Obligations.StoredWordLoadsBackReversed : Prop :=
  ∀ (s : State) (rs2 rs1 : RegIdx) (imm : BitVec 12) (ea v : Word),
    s.Inv → s.params.readDirection = .increasingIndex → ea = s.readReg rs1 + imm.signExtend 32 →
    v = s.readReg rs2 → 1 ≤ ea.toInt →
    (ea.toInt ≤ s.params.capacity →
      StoreThenLoad (.sb rs2 rs1 imm) s .lbu ea 0 (BitVec.ofNat 32 (v.toNat % 256))) ∧
    (ea.toInt + 1 ≤ s.params.capacity → ea.toInt + 1 < 2 ^ 31 →
      StoreThenLoad (.sh rs2 rs1 imm) s .lhu ea 1 (BitVec.ofNat 32 (v.toNat % 256 * 256 + v.toNat / 256 % 256))) ∧
    (ea.toInt + 3 ≤ s.params.capacity → ea.toInt + 3 < 2 ^ 31 →
      StoreThenLoad (.sw rs2 rs1 imm) s .lw ea 3 (BitVec.ofNat 32
        (v.toNat % 256 * 2 ^ 24 + v.toNat / 2 ^ 8 % 256 * 2 ^ 16 + v.toNat / 2 ^ 16 % 256 * 2 ^ 8 + v.toNat / 2 ^ 24)))

/-- Under `LSU_READ_DIRECTION = decreasing_index` the round trip of the source's §8 holds for every width (C1, D18;
log 5). -/
def Obligations.RoundTripTowardDecreasingIndex : Prop :=
  ∀ (s : State) (rs2 rs1 : RegIdx) (imm : BitVec 12) (ea v : Word),
    s.Inv → s.params.readDirection = .decreasingIndex → ea = s.readReg rs1 + imm.signExtend 32 →
    v = s.readReg rs2 → 1 ≤ ea.toInt →
    (ea.toInt ≤ s.params.capacity →
      StoreThenLoad (.sb rs2 rs1 imm) s .lbu ea 0 (BitVec.ofNat 32 (v.toNat % 2 ^ 8))) ∧
    (ea.toInt + 1 ≤ s.params.capacity →
      StoreThenLoad (.sh rs2 rs1 imm) s .lhu ea 0 (BitVec.ofNat 32 (v.toNat % 2 ^ 16))) ∧
    (ea.toInt + 3 ≤ s.params.capacity → StoreThenLoad (.sw rs2 rs1 imm) s .lw ea 0 v)

/-- After any number of steps each store byte holds what the latest store to it put there, or what it held at the start
if no step stored there (R55). -/
def Obligations.StoreHoldsTheLatestStoredByte : Prop :=
  ∀ (k : Nat) (s t : State), s.Inv → Sys2Proof.core.run k s = .next t →
    ∀ j : Nat, t.store.read j = (latestStore k s j).getD (s.store.read j)

/-! ## Branches, upper immediates, jumps, ECALL -/

/-- The six conditional branches (R201 to R206): to `pc + immB` if the comparison holds, else to `pc + 4`, modulo 2^32;
nothing but the pc changes. That the sum wraps is D15 (log 10), that no target is refused D16 (log 11); opcode and field
positions are D3 to D5 (log 8). -/
def Obligations.ConditionalBranchResults : Prop :=
  (DecodesBranch 0b000 .beq ∧ ∀ (s : State) (rs1 rs2 : RegIdx) (offset : BitVec 13),
    BranchResult (.beq rs1 rs2 offset) s (s.readReg rs1 = s.readReg rs2) offset.toInt) ∧
  (DecodesBranch 0b001 .bne ∧ ∀ (s : State) (rs1 rs2 : RegIdx) (offset : BitVec 13),
    BranchResult (.bne rs1 rs2 offset) s (s.readReg rs1 ≠ s.readReg rs2) offset.toInt) ∧
  (DecodesBranch 0b100 .blt ∧ ∀ (s : State) (rs1 rs2 : RegIdx) (offset : BitVec 13),
    BranchResult (.blt rs1 rs2 offset) s ((s.readReg rs1).toInt < (s.readReg rs2).toInt) offset.toInt) ∧
  (DecodesBranch 0b101 .bge ∧ ∀ (s : State) (rs1 rs2 : RegIdx) (offset : BitVec 13),
    BranchResult (.bge rs1 rs2 offset) s ((s.readReg rs1).toInt ≥ (s.readReg rs2).toInt) offset.toInt) ∧
  (DecodesBranch 0b110 .bltu ∧ ∀ (s : State) (rs1 rs2 : RegIdx) (offset : BitVec 13),
    BranchResult (.bltu rs1 rs2 offset) s ((s.readReg rs1).toNat < (s.readReg rs2).toNat) offset.toInt) ∧
  (DecodesBranch 0b111 .bgeu ∧ ∀ (s : State) (rs1 rs2 : RegIdx) (offset : BitVec 13),
    BranchResult (.bgeu rs1 rs2 offset) s ((s.readReg rs1).toNat ≥ (s.readReg rs2).toNat) offset.toInt)

/-- LUI (R220): the 20-bit fragment above twelve zero bits. Opcode and field positions are D3 to D5 (log 8). -/
def Obligations.LuiResult : Prop :=
  (∀ w : Word, w.extractLsb' 0 7 = 0b0110111#7 → decode w = .ok (.lui (w.extractLsb' 7 5) (w.extractLsb' 12 20))) ∧
  ∀ (s : State) (rd : RegIdx) (imm20 : BitVec 20),
    RegisterResult (.lui rd imm20) s rd fun v => v.toNat = imm20.toNat * 2 ^ 12

/-- AUIPC: its own address plus the U-immediate; that the sum wraps is D15 (log 10). Opcode and field positions
are D3 to D5 (log 8). -/
def Obligations.AuipcResult : Prop :=
  (∀ w : Word, w.extractLsb' 0 7 = 0b0010111#7 → decode w = .ok (.auipc (w.extractLsb' 7 5) (w.extractLsb' 12 20))) ∧
  ∀ (s : State) (rd : RegIdx) (imm20 : BitVec 20),
    RegisterResult (.auipc rd imm20) s rd fun v => v.toNat = (s.pc.toNat + imm20.toNat * 2 ^ 12) % 2 ^ 32

/-- JAL and JALR: the link register takes `pc + 4`, the pc the target; JALR's base is read before the link is written
(D14) and only bit 0 of its target is cleared; no target is refused (D16). Log 10, 11; opcodes and field
positions are D3 to D5, `funct3 = 000` D8 (log 8, 9). -/
def Obligations.JumpAndLinkResults : Prop :=
  (∀ w : Word, w.extractLsb' 0 7 = 0b1101111#7 →
    ∃ offset : BitVec 21, offset.toNat = 2 ^ 20 * (w.extractLsb' 31 1).toNat + 2 ^ 12 * (w.extractLsb' 12 8).toNat
        + 2 ^ 11 * (w.extractLsb' 20 1).toNat + 2 * (w.extractLsb' 21 10).toNat ∧
      decode w = .ok (.jal (w.extractLsb' 7 5) offset)) ∧
  (∀ (s : State) (rd : RegIdx) (offset : BitVec 21),
    ∃ t, exec (.jal rd offset) s = .next t ∧ WritesOnly s t rd (s.pc + 4) t.pc ∧
      (t.pc.toNat : Int) = (s.pc.toNat + offset.toInt) % 2 ^ 32) ∧
  DecodesI 0b1100111 0b000 .jalr ∧
  (∀ (s : State) (rd rs1 : RegIdx) (imm : BitVec 12),
    ∃ t, exec (.jalr rd rs1 imm) s = .next t ∧ WritesOnly s t rd (s.pc + 4) t.pc ∧
      (t.pc.toNat : Int) = ((s.readReg rs1).toNat + imm.toInt) % 2 ^ 32 / 2 * 2)

/-- ECALL: selector 10 halts with 0, selector 17 with all of `x11`, every other one is an unsupported system call;
nothing but the status changes (R260 to R262; D25, D26, D29, D32; log 7, 11, 12, 13). That its word is `0x00000073` alone
is R78 and D9 (log 9), its opcode value D3 (log 8). -/
def Obligations.EcallOutcomes : Prop :=
  (∀ w : Word, decode w = .ok .ecall ↔ w = 0x00000073) ∧
  ∀ s : State,
    ((s.readReg 10).toNat = 10 → EndsRun .ecall s (.halted 0)) ∧
    ((s.readReg 10).toNat = 17 → EndsRun .ecall s (.halted (s.readReg 11))) ∧
    ((s.readReg 10).toNat ≠ 10 → (s.readReg 10).toNat ≠ 17 → EndsRun .ecall s (.unsupportedSyscall (s.readReg 10)))

/-! ## What an instruction may touch -/

/-- The table of R23: no instruction writes a register other than its `rd`, and no instruction's effect depends on a
register other than those the table lists. Two runs that agree on the listed registers agree on everything they
do. -/
def Obligations.RegistersReadAndWritten : Prop :=
  (∀ (i : Instr) (s t : State), exec i s = .next t → ∀ r, destReg i ≠ some r → t.readReg r = s.readReg r) ∧
  (∀ (i : Instr) (s s' t t' : State), s.status = .running → s'.status = .running → s.pc = s'.pc → s.imem = s'.imem →
    s.store = s'.store → s.params = s'.params → (∀ r ∈ sourceRegs i s, s.readReg r = s'.readReg r) →
    exec i s = .next t → exec i s' = .next t' →
    t.pc = t'.pc ∧ t.status = t'.status ∧ t.imem = t'.imem ∧ t.store = t'.store ∧ t.params = t'.params ∧
    (t.status = .running → ∀ r, destReg i = some r → t.readReg r = t'.readReg r))

/-- No instruction changes a store byte but a store, and a store only the bytes at its own indices; none changes the
image or the build (R40, R58). -/
def Obligations.OnlyStoresChangeTheStore : Prop :=
  ∀ (i : Instr) (s t : State), s.Inv → exec i s = .next t →
    (∀ j : Nat, (j : Int) ∉ storedIndices i s → t.store.read j = s.store.read j) ∧ t.imem = s.imem ∧ t.params = s.params

/-- Where an instruction does not end the run, the pc moves to `pc + 4`, but for the branches and jumps; a branch goes to
its target or to `pc + 4` (R26; the wrap is D15, log 10). -/
def Obligations.PcMovesToTheSuccessor : Prop :=
  ∀ (i : Instr) (s t : State), s.status = .running → exec i s = .next t → t.status = .running →
    redirects i = false → t.pc.toNat = (s.pc.toNat + 4) % 2 ^ 32

/-- At execute only a load, a store or an ECALL can end the run: the accesses with their addressing fault alone, ECALL
always and by a halt or an unsupported system call (R290, R260, R261; the selectors D25, log 7; what is recorded D32, log
12). -/
def Obligations.OnlyAccessesAndEcallEndTheRun : Prop :=
  ∀ (i : Instr) (s t : State), s.status = .running → exec i s = .next t →
    (loadAccess i = none → storeAccess i = none → i ≠ .ecall → t.status = .running) ∧
    (i = .ecall → (∃ c, t.status = .halted c) ∨ ∃ v, t.status = .unsupportedSyscall v) ∧
    (∀ n rs1 imm, loadAccess i = some (n, rs1, imm) → t.status = .running ∨
      t.status = .addressingFault .load (s.effectiveAddress rs1 imm)) ∧
    (∀ n rs2 rs1 imm, storeAccess i = some (n, rs2, rs1, imm) → t.status = .running ∨
      t.status = .addressingFault .store (s.effectiveAddress rs1 imm))

/-- Every instruction, in every state, has a next state: the model refuses none and faults on none (R294: "every
instruction in `opcode_table.json` is legal at all times"). -/
def Obligations.EveryInstructionHasANextState : Prop :=
  ∀ (i : Instr) (s : State), ∃ t, exec i s = .next t ∧ t.imem = s.imem ∧ t.params = s.params

/-! ## The step -/

/-- A running step with a fetchable word that decodes is that instruction's meaning, nothing added (R322, D1, D28). -/
def Obligations.StepRunsTheDecodedInstruction : Prop :=
  ∀ (s : State) (i : Instr), s.status = .running → FetchesInstr s i → step s = exec i s

/-- The model's form of "no further step executes" (R286): the step of an ended run answers the fault `runEnded` with the
outcome (log 1), and a running state always has a next state (R294, R327). What R286 says without that form is
`NothingHappensAfterTheEnd`. -/
def Obligations.TerminalOutcomesAreSticky : Prop :=
  (∀ s : State, s.status ≠ .running → step s = .fault (.runEnded s.status)) ∧
  (∀ s : State, s.status = .running → ∃ t, step s = .next t) ∧
  (∀ (k : Nat) (s : State), s.status ≠ .running → Sys2Proof.core.run (k + 1) s = .fault (.runEnded s.status))

/-- A step that ends the run has no other effect: pc, registers, store, image and build are as before (R287; D19, D29;
log 11, 12). -/
def Obligations.TerminationIsPrecise : Prop :=
  ∀ s t : State, step s = .next t → t.status ≠ .running → t = { s with status := t.status }

/-- What a running step records in the status, and when, outcome by outcome (R280 to R285, R290; D16, D27, D28, D32;
log 11, 12; the selectors D25, log 7; the strict decoder D6 to D10, log 9). -/
def Obligations.OutcomesHaveTheirCause : Prop :=
  ∀ s t : State, s.status = .running → step s = .next t →
    (t.status = .endOfProgram ↔ s.pc.toNat = 4 * s.imem.length) ∧
    (∀ a, t.status = .addressingFault .fetch a ↔
      a = s.pc ∧ s.pc.toNat ≠ 4 * s.imem.length ∧ (s.pc.toNat % 4 ≠ 0 ∨ s.imem.length ≤ s.pc.toNat / 4)) ∧
    (∀ w, t.status = .decodeFault w ↔ FetchesWord s w ∧ ¬InOpcodeTable w) ∧
    (∀ a, t.status = .addressingFault .load a ↔ ∃ i n rs1 imm, FetchesInstr s i ∧ loadAccess i = some (n, rs1, imm) ∧
      a = s.effectiveAddress rs1 imm ∧ ∃ j ∈ readIndices s.params a n, j < 0 ∨ (s.params.capacity : Int) ≤ j) ∧
    (∀ a, t.status = .addressingFault .store a ↔ ∃ i n rs2 rs1 imm, FetchesInstr s i ∧
      storeAccess i = some (n, rs2, rs1, imm) ∧ a = s.effectiveAddress rs1 imm ∧
      ∃ j ∈ writeIndices s.params a n, j < 0 ∨ (s.params.capacity : Int) ≤ j) ∧
    (∀ c, t.status = .halted c ↔ FetchesInstr s .ecall ∧
      (s.readReg 10 = 10 ∧ c = 0 ∨ s.readReg 10 = 17 ∧ c = s.readReg 11)) ∧
    (∀ v, t.status = .unsupportedSyscall v ↔ FetchesInstr s .ecall ∧ v = s.readReg 10 ∧ v ≠ 10 ∧ v ≠ 17)

/-- A word outside `opcode_table.json` at the pc ends the run with `DecodeFault(w)` and no other effect: FENCE, FENCE.I,
the atomics, EBREAK, MRET, SRET, WFI, the CSR instructions and the all-zero word among them (R56, R57, R79, R283,
R292, R295, R298, R299; D6 to D10; log 9). -/
def Obligations.UnlistedWordEndsTheRun : Prop :=
  (∀ (s : State) (w : Word), s.status = .running → FetchesWord s w → ¬InOpcodeTable w →
    step s = .next { s with status := .decodeFault w }) ∧
  (∀ w : Word, w.extractLsb' 0 7 = 0b0001111#7 ∨ w.extractLsb' 0 7 = 0b0101111#7 ∨
    w = 0x00100073 ∨ w = 0x30200073 ∨ w = 0x10500073 ∨ w = 0xC0002073 ∨ w = 0x00000000 ∨ w = 0xFFFFFFFF →
    ¬InOpcodeTable w)

/-- A run of `JAL x0, 0` never ends: after any number of steps the state is the one it began with (R300, R323). -/
def Obligations.SelfJumpNeverEnds : Prop :=
  ∀ (k : Nat) (s : State), s.status = .running → FetchesWord s 0x0000006F → Sys2Proof.core.run k s = .next s

/-- `withFetchWord` places a word where the next step runs it (log 4). -/
def Obligations.PlacedWordRunsNext : Prop :=
  ∀ (s : State) (w : Nat) (i : Instr), decodeTableWord 32 w = some i →
    step (s.withFetchWord 32 w) = exec i (s.withFetchWord 32 w)

/-! ## Invariants -/

/-- A step keeps the invariant: the store stays in canonical form (log 3) and inside `[0, CAPACITY)`, the image stays
within `2^30` words (R7, R32). -/
def Obligations.StepKeepsTheInvariant : Prop :=
  ∀ s t : State, s.Inv → step s = .next t → t.Inv

/-- Nothing changes the image or the build during a run, however long (R31, R58). -/
def Obligations.RunsKeepImageAndBuild : Prop :=
  ∀ (k : Nat) (s t : State), Sys2Proof.core.run k s = .next t →
    t.imem = s.imem ∧ t.params = s.params ∧ (s.Inv → t.Inv)

/-- The state after reset meets the invariant. -/
def Obligations.ResetMeetsTheInvariant : Prop := State.reset.Inv

/-- Reset leaves pc 0, `x0` zero, `x1` to `x31` equal to `INIT_X`, the store equal to `INIT_STORE`, the image and status
`Running`, whatever `INIT_X`, `INIT_STORE` and the image are (R34, R320; open contents D23, D24). `State.reset` is the
case the model names: zeros and no image (log 2, 3, 4, 5). -/
def Obligations.ResetLeavesTheGivenState : Prop :=
  (∀ (p : Params) (image : List Word) (initX : Vector Word 31) (initStore : Memory),
    (State.boot p image initX initStore).pc = 0 ∧ (State.boot p image initX initStore).status = .running ∧
    (State.boot p image initX initStore).readReg 0 = 0 ∧
    (∀ (k : Nat) (h : k < 31), (State.boot p image initX initStore).readReg (BitVec.ofNat 5 (k + 1)) = initX[k]) ∧
    (∀ j, (State.boot p image initX initStore).store.read j = initStore.read j) ∧
    (State.boot p image initX initStore).imem = image) ∧
  (∀ r, State.reset.readReg r = 0) ∧ (∀ j, State.reset.store.read j = 0) ∧ State.reset.imem = [] ∧
  State.reset.params.capacity = 2 ^ 20 ∧ State.reset.params.readDirection = .increasingIndex

/-! ## What the host sees -/

/-- The dump is 128 bytes, byte `4i + k` being bits `8k+7:8k` of `x[i]`, the first four zero; it exists exactly when the
run has ended (R288; at end of program D33, log 12). -/
def Obligations.RegisterDumpLayout : Prop :=
  ∀ s : State, s.registerDump.length = 128 ∧
    (∀ i < 32, ∀ k < 4, (s.registerDump[4 * i + k]?).map (·.toNat)
      = some ((s.readReg (BitVec.ofNat 5 i)).toNat / 2 ^ (8 * k) % 2 ^ 8)) ∧
    (∀ k < 4, s.registerDump[k]? = some 0) ∧
    (s.status = .running → s.dump = none) ∧ (s.status ≠ .running → s.dump = some s.registerDump)

/-- A halt reports its code; the three fault statuses are nonzero and different; a run that goes on reports none (R289,
R300; D26, D27). The numbers themselves are open: the statement holds whatever they are (log 6). -/
def Obligations.ExitStatusesAreDistinct : Prop :=
  (∀ c, exitStatus (.halted c) = some c.toNat) ∧ exitStatus .running = none ∧
  (∃ e, exitStatus .endOfProgram = some e) ∧
  ∃ d a u : Nat, d ≠ 0 ∧ a ≠ 0 ∧ u ≠ 0 ∧ d ≠ a ∧ d ≠ u ∧ a ≠ u ∧
    (∀ w, exitStatus (.decodeFault w) = some d) ∧ (∀ k x, exitStatus (.addressingFault k x) = some a) ∧
    (∀ v, exitStatus (.unsupportedSyscall v) = some u)

/-! ## Registers, extensions and the end of a run, as the spec states them -/

/-- A write to one of `x1` to `x31` is read back, and a register keeps its value until an instruction writes it, over any
number of steps (R22). -/
def Obligations.RegistersKeepTheirLastWrite : Prop :=
  (∀ (s : State) (r : RegIdx) (v : Word), r ≠ 0 → (s.writeReg r v).readReg r = v) ∧
  (∀ (k : Nat) (s t : State) (r : RegIdx), Sys2Proof.core.run k s = .next t →
    (∀ j < k, ∀ u i, Sys2Proof.core.run j s = .next u → FetchesInstr u i → destReg i ≠ some r) →
    t.readReg r = s.readReg r)

/-- `sext_N` and `zext_N` (R12), for every width: the sign extension has the signed value of the low `N` bits and copies
bit `N − 1` above them, the zero extension has zeros there. -/
def Obligations.ExtensionsOfTheLowBits : Prop :=
  ∀ (n : Nat) (v : Word), 1 ≤ n → n ≤ 32 →
    (sext n v).toInt = (v.toNat % 2 ^ n : Nat) - (if v.getLsbD (n - 1) then 2 ^ n else 0 : Int) ∧
    (∀ k < 32, (sext n v).getLsbD k = v.getLsbD (min k (n - 1))) ∧
    (∀ k < 32, (zext n v).getLsbD k = (decide (k < n) && v.getLsbD k))

/-- Every outcome but `Running` is terminal and sticky (R286): a run that has left `Running` after `j` steps has no longer
run, and the state it left is the only one it has from then on. -/
def Obligations.NothingHappensAfterTheEnd : Prop :=
  ∀ (j k : Nat) (s u t : State), Sys2Proof.core.run j s = .next u → u.status ≠ .running →
    Sys2Proof.core.run (j + k) s = .next t → k = 0 ∧ t = u
end

