-- ==== Sys2Proof/Laws/Memory.lean ====
section
/-! SUPPORT. The store's bytes: a read after a write, and every operation keeps the canonical form. -/

namespace Sys2Proof.Machine

/-- What stands in the store after a write: the new byte, or an entry that was there. -/
theorem Memory.mem_write {m : Memory} {j : Nat} {b : Byte} {c : Host.Cell} (h : c ∈ m.write j b) :
    c = (j, b) ∧ b ≠ Memory.unlisted ∨ c ∈ m := by
  induction m with
  | nil => simp only [Memory.write] at h; split at h <;> simp_all
  | cons d m ih =>
    simp only [Memory.write] at h
    split at h
    · split at h
      · exact .inr h
      · rcases List.mem_cons.1 h with h | h
        · exact .inl ⟨h, ‹_›⟩
        · exact .inr h
    · split at h
      · split at h
        · exact .inr (List.mem_cons_of_mem _ h)
        · rcases List.mem_cons.1 h with h | h
          · exact .inl ⟨h, ‹_›⟩
          · exact .inr (List.mem_cons_of_mem _ h)
      · rcases List.mem_cons.1 h with h | h
        · exact .inr (h ▸ List.mem_cons_self)
        · exact (ih h).imp_right (List.mem_cons_of_mem _)

/-- A write keeps the canonical form. -/
theorem Memory.wf_write {m : Memory} (h : m.wf) (j : Nat) (b : Byte) : (m.write j b).wf := by
  refine ⟨?_, fun c hc => ?_⟩
  · induction m with
    | nil => simp only [Memory.write]; split <;> simp
    | cons d m ih =>
      obtain ⟨hs, hn⟩ := h
      obtain ⟨hd, hm⟩ := List.pairwise_cons.1 hs
      have hm' : Memory.wf m := ⟨hm, fun c hc => hn c (List.mem_cons_of_mem _ hc)⟩
      simp only [Memory.write]
      split
      · split
        · exact hs
        · refine List.pairwise_cons.2 ⟨fun c hc => ?_, hs⟩
          rcases List.mem_cons.1 hc with rfl | hc
          · assumption
          · exact Nat.lt_trans ‹_› (hd c hc)
      · split
        · split
          · exact hm
          · exact List.pairwise_cons.2 ⟨fun c hc => by have := hd c hc; simp_all, hm⟩
        · refine List.pairwise_cons.2 ⟨fun c hc => ?_, ih hm'⟩
          rcases Memory.mem_write hc with ⟨rfl, -⟩ | hc
          · simp only; omega
          · exact hd c hc
  · rcases Memory.mem_write hc with ⟨rfl, hb⟩ | hc
    · exact hb
    · exact h.2 c hc

/-- An index below every listed one reads as unlisted. -/
theorem Memory.read_of_lt {m : Memory} {j : Nat} (h : ∀ c ∈ m, j < c.1) : m.read j = Memory.unlisted := by
  induction m with
  | nil => rfl
  | cons d m ih =>
    have hd := h d List.mem_cons_self
    rw [Memory.read, if_neg (by omega), ih fun c hc => h c (List.mem_cons_of_mem _ hc)]

/-- A read after a write: the new byte at its index, every other byte as before. -/
theorem Memory.read_write {m : Memory} (h : m.wf) (j : Nat) (b : Byte) (i : Nat) :
    (m.write j b).read i = if i = j then b else m.read i := by
  induction m with
  | nil =>
    simp only [Memory.write]
    split <;> simp_all [Memory.read, eq_comm]
  | cons d m ih =>
    obtain ⟨hd, hm⟩ := List.pairwise_cons.1 h.1
    have hm' : Memory.wf m := ⟨hm, fun c hc => h.2 c (List.mem_cons_of_mem _ hc)⟩
    simp only [Memory.write]
    split
    · rename_i hlt
      have hj : Memory.read (d :: m) j = Memory.unlisted := Memory.read_of_lt fun c hc => by
        rcases List.mem_cons.1 hc with rfl | hc
        · exact hlt
        · exact Nat.lt_trans hlt (hd c hc)
      split
      · by_cases hi : i = j <;> simp_all
      · by_cases hi : i = j
        · simp [Memory.read, hi]
        · rw [Memory.read, if_neg (fun e => hi e.symm), if_neg hi]
    · split
      · rename_i hjd
        split
        · by_cases hi : i = j
          · rw [if_pos hi, Memory.read_of_lt fun c hc => by have := hd c hc; omega]
            exact (‹b = Memory.unlisted›).symm
          · rw [if_neg hi, Memory.read, if_neg (by omega)]
        · by_cases hi : i = j
          · simp [Memory.read, hi]
          · rw [Memory.read, if_neg (fun e => hi e.symm), if_neg hi, Memory.read, if_neg (by omega)]
      · by_cases hi : d.1 = i
        · rw [Memory.read, if_pos hi, if_neg (by omega), Memory.read, if_pos hi]
        · rw [Memory.read, if_neg hi, ih hm', Memory.read, if_neg hi]

/-- Writing several bytes keeps the canonical form. -/
theorem Memory.wf_writeBytes {m : Memory} (h : m.wf) (js : List Int) (k : Nat) (v : Word) :
    (m.writeBytes js k v).wf := by
  induction js generalizing m k with
  | nil => exact h
  | cons j js ih => exact ih (Memory.wf_write h _ _) _

/-- Every entry after several writes is an entry of before, or stands at one of the written indices. -/
theorem Memory.mem_writeBytes {m : Memory} {js : List Int} {k : Nat} {v : Word} {c : Host.Cell}
    (h : c ∈ m.writeBytes js k v) : c ∈ m ∨ ∃ j ∈ js, c.1 = j.toNat := by
  induction js generalizing m k with
  | nil => exact .inl h
  | cons j js ih =>
    rcases ih h with h | ⟨i, hi, e⟩
    · rcases Memory.mem_write h with ⟨rfl, -⟩ | h
      · exact .inr ⟨j, List.mem_cons_self, rfl⟩
      · exact .inl h
    · exact .inr ⟨i, List.mem_cons_of_mem _ hi, e⟩

/-- A byte at none of the written indices is as before. -/
theorem Memory.read_writeBytes_of_not_mem {m : Memory} (h : m.wf) {js : List Int} {k : Nat} {v : Word} {i : Nat}
    (hi : ∀ j ∈ js, i ≠ j.toNat) : (m.writeBytes js k v).read i = m.read i := by
  induction js generalizing m k with
  | nil => rfl
  | cons j js ih =>
    rw [Memory.writeBytes, ih (Memory.wf_write h _ _) fun j' hj' => hi j' (List.mem_cons_of_mem _ hj'),
      Memory.read_write h, if_neg (hi j List.mem_cons_self)]

end Sys2Proof.Machine
end

