-- ==== Sys2Proof/Laws/State.lean ====
section
/-! SUPPORT. One lemma per field per update of a state, so that no later proof unfolds a record update. -/

namespace Sys2Proof.Machine

variable (s : State)

@[simp] theorem State.setPc_x (p : Word) : (s.setPc p).x = s.x := rfl
@[simp] theorem State.setPc_pc (p : Word) : (s.setPc p).pc = p := rfl
@[simp] theorem State.setPc_status (p : Word) : (s.setPc p).status = s.status := rfl
@[simp] theorem State.setPc_imem (p : Word) : (s.setPc p).imem = s.imem := rfl
@[simp] theorem State.setPc_store (p : Word) : (s.setPc p).store = s.store := rfl
@[simp] theorem State.setPc_params (p : Word) : (s.setPc p).params = s.params := rfl

@[simp] theorem State.terminate_x (o : RunStatus) : (s.terminate o).x = s.x := rfl
@[simp] theorem State.terminate_pc (o : RunStatus) : (s.terminate o).pc = s.pc := rfl
@[simp] theorem State.terminate_status (o : RunStatus) : (s.terminate o).status = o := rfl
@[simp] theorem State.terminate_imem (o : RunStatus) : (s.terminate o).imem = s.imem := rfl
@[simp] theorem State.terminate_store (o : RunStatus) : (s.terminate o).store = s.store := rfl
@[simp] theorem State.terminate_params (o : RunStatus) : (s.terminate o).params = s.params := rfl

@[simp] theorem State.writeReg_pc (r : RegIdx) (v : Word) : (s.writeReg r v).pc = s.pc := by
  unfold State.writeReg; split <;> rfl
@[simp] theorem State.writeReg_status (r : RegIdx) (v : Word) : (s.writeReg r v).status = s.status := by
  unfold State.writeReg; split <;> rfl
@[simp] theorem State.writeReg_imem (r : RegIdx) (v : Word) : (s.writeReg r v).imem = s.imem := by
  unfold State.writeReg; split <;> rfl
@[simp] theorem State.writeReg_store (r : RegIdx) (v : Word) : (s.writeReg r v).store = s.store := by
  unfold State.writeReg; split <;> rfl
@[simp] theorem State.writeReg_params (r : RegIdx) (v : Word) : (s.writeReg r v).params = s.params := by
  unfold State.writeReg; split <;> rfl

@[simp] theorem State.writeAndAdvance_pc (r : RegIdx) (v : Word) : (s.writeAndAdvance r v).pc = s.pc + 4 := by
  simp [State.writeAndAdvance, State.nextPc]
@[simp] theorem State.writeAndAdvance_status (r : RegIdx) (v : Word) : (s.writeAndAdvance r v).status = s.status := by
  simp [State.writeAndAdvance, State.nextPc]
@[simp] theorem State.writeAndAdvance_imem (r : RegIdx) (v : Word) : (s.writeAndAdvance r v).imem = s.imem := by
  simp [State.writeAndAdvance, State.nextPc]
@[simp] theorem State.writeAndAdvance_store (r : RegIdx) (v : Word) : (s.writeAndAdvance r v).store = s.store := by
  simp [State.writeAndAdvance, State.nextPc]
@[simp] theorem State.writeAndAdvance_params (r : RegIdx) (v : Word) : (s.writeAndAdvance r v).params = s.params := by
  simp [State.writeAndAdvance, State.nextPc]

@[simp] theorem State.writeReg_zero (v : Word) : s.writeReg 0#5 v = s := by
  simp [State.writeReg]

end Sys2Proof.Machine
end

