-- ==== Sys2Proof/Laws/Registers.lean ====
section
/-! SUPPORT. Reading a register after each update (R21, R22). -/

namespace Sys2Proof.Machine

variable (s : State)

/-- Register numbers other than 0 have different slots. -/
theorem regSlot_inj {q r : RegIdx} (hq : q ≠ 0#5) (hr : r ≠ 0#5) (h : r.toNat - 1 = q.toNat - 1) : q = r := by
  have hq' : q.toNat ≠ 0 := fun e => hq (BitVec.eq_of_toNat_eq e)
  have hr' : r.toNat ≠ 0 := fun e => hr (BitVec.eq_of_toNat_eq e)
  exact BitVec.eq_of_toNat_eq (by omega)

@[simp] theorem State.readReg_zero : s.readReg 0#5 = 0#32 := by
  simp [State.readReg]

/-- A register reads as it was last written; `x0` reads as zero whatever is written (R21, R22). -/
theorem State.readReg_writeReg (r q : RegIdx) (v : Word) :
    (s.writeReg r v).readReg q = if q = r ∧ q ≠ 0#5 then v else s.readReg q := by
  by_cases hq : q = 0#5
  · simp [hq]
  by_cases hr : r = 0#5
  · simp [hr, hq]
  by_cases hqr : q = r
  · simp [State.readReg, State.writeReg, hqr, hr]
  · have hne : r.toNat - 1 ≠ q.toNat - 1 := fun h => hqr (regSlot_inj hq hr h)
    simp [State.readReg, State.writeReg, hq, hr, hqr, Vector.getElem_set_ne _ _ hne]

@[simp] theorem State.readReg_setPc (p : Word) (q : RegIdx) : (s.setPc p).readReg q = s.readReg q := rfl

@[simp] theorem State.readReg_terminate (o : RunStatus) (q : RegIdx) :
    (s.terminate o).readReg q = s.readReg q := rfl

/-- Reading sees the register file alone. -/
theorem State.readReg_congr {s t : State} (h : s.x = t.x) (q : RegIdx) : s.readReg q = t.readReg q := by
  simp [State.readReg, h]

theorem State.readReg_writeAndAdvance (r q : RegIdx) (v : Word) :
    (s.writeAndAdvance r v).readReg q = if q = r ∧ q ≠ 0#5 then v else s.readReg q := by
  simp [State.writeAndAdvance, State.readReg_writeReg]

end Sys2Proof.Machine
end

