-- ==== Sys2Proof/Laws/Access.lean ====
section
/-! SUPPORT. What a memory access can do: the bounds check as an inequality (R46, R47), and one lemma per shared
operation that says everything a load or a store does. -/

namespace Sys2Proof.Machine

theorem validIndex_iff {capacity : Nat} {j : Int} : validIndex capacity j = true ↔ 0 ≤ j ∧ j < (capacity : Int) := by
  simp [validIndex]

/-- The bounds check of a store, index by index. -/
theorem writeIndices_ok_iff {p : Params} {ea : Word} {n : Nat} :
    indicesOk p (writeIndices p ea n) = true ↔
      ∀ k < n, 0 ≤ storeIndex p.capacity ea - k ∧ storeIndex p.capacity ea - k < (p.capacity : Int) := by
  simp [indicesOk, writeIndices, validIndex_iff]

/-- The bounds check of a load, index by index. -/
theorem readIndices_ok_iff {p : Params} {ea : Word} {n : Nat} :
    indicesOk p (readIndices p ea n) = true ↔
      ∀ k < n, 0 ≤ storeIndex p.capacity ea + scanStep p.readDirection * k ∧
        storeIndex p.capacity ea + scanStep p.readDirection * k < (p.capacity : Int) := by
  simp [indicesOk, readIndices, validIndex_iff]

/-- A store checks all its indices, and then writes the store alone. -/
theorem State.memWrite_eq_some {s t : State} {ea v : Word} {n : Nat} (h : s.memWrite ea n v = some t) :
    indicesOk s.params (writeIndices s.params ea n) = true ∧
      t = { s with store := s.store.writeBytes (writeIndices s.params ea n) 0 v } := by
  unfold State.memWrite at h
  split at h
  · exact ⟨‹_›, (Option.some.inj h).symm⟩
  · exact absurd h (by simp)

/-- Everything a load does: one register write and the advance, or the end of the run (R160). -/
theorem State.loadAt_cases (s : State) (n : Nat) (extend : Word → Word) (rd rs1 : RegIdx) (imm : BitVec 12) :
    (∃ v, s.memRead (s.effectiveAddress rs1 imm) n = some v ∧
      s.loadAt n extend rd rs1 imm = s.writeAndAdvance rd (extend v)) ∨
    (s.memRead (s.effectiveAddress rs1 imm) n = none ∧
      s.loadAt n extend rd rs1 imm = s.terminate (.addressingFault .load (s.effectiveAddress rs1 imm))) := by
  unfold State.loadAt
  cases h : s.memRead (s.effectiveAddress rs1 imm) n with
  | some v => exact .inl ⟨v, rfl, rfl⟩
  | none => exact .inr ⟨rfl, rfl⟩

/-- Everything a store does: its bytes and the advance, or the end of the run (R180). -/
theorem State.storeAt_cases (s : State) (n : Nat) (rs2 rs1 : RegIdx) (imm : BitVec 12) :
    (indicesOk s.params (writeIndices s.params (s.effectiveAddress rs1 imm) n) = true ∧
      s.storeAt n rs2 rs1 imm = { s with
        store := s.store.writeBytes (writeIndices s.params (s.effectiveAddress rs1 imm) n) 0 (s.readReg rs2)
        pc := s.pc + 4 }) ∨
    (indicesOk s.params (writeIndices s.params (s.effectiveAddress rs1 imm) n) = false ∧
      s.storeAt n rs2 rs1 imm = s.terminate (.addressingFault .store (s.effectiveAddress rs1 imm))) := by
  unfold State.storeAt State.memWrite
  by_cases h : indicesOk s.params (writeIndices s.params (s.effectiveAddress rs1 imm) n) = true
  · exact .inl ⟨h, by simp [h, State.setPc, State.nextPc]⟩
  · exact .inr ⟨by simpa using h, by simp [h]⟩

end Sys2Proof.Machine
end

