-- ==== Sys2Proof/Laws/Exec.lean ====
section
/-! SUPPORT. Everything an instruction can do to a state, said once: one register write with a new pc, a new pc alone,
the end of the run, or the bytes of one store. Frames and invariants follow from this case split. -/

namespace Sys2Proof.Machine

/-- The four shapes of an instruction's next state. -/
inductive Effect (i : Instr) (s : State) : State → Prop where
  /-- One register takes a value, the pc goes to `target`. -/
  | write (rd : RegIdx) (v target : Word) (hrd : destReg i = some rd) (hst : storeAccess i = none) :
      Effect i s ((s.writeReg rd v).setPc target)
  /-- The pc goes to `target`. -/
  | goTo (target : Word) (hst : storeAccess i = none) : Effect i s (s.setPc target)
  /-- The run ends with outcome `o`. -/
  | ended (o : RunStatus) (ho : o ≠ .running) : Effect i s (s.terminate o)
  /-- The bytes of one store, all of them in the store. -/
  | stored (n : Nat) (rs2 rs1 : RegIdx) (imm : BitVec 12) (hst : storeAccess i = some (n, rs2, rs1, imm))
      (hok : indicesOk s.params (writeIndices s.params (s.effectiveAddress rs1 imm) n) = true) :
      Effect i s { s with
        store := s.store.writeBytes (writeIndices s.params (s.effectiveAddress rs1 imm) n) 0 (s.readReg rs2)
        pc := s.pc + 4 }

theorem syscallOutcome_ne_running (selector code : Word) : syscallOutcome selector code ≠ .running := by
  unfold syscallOutcome
  split_ifs <;> simp

/-- A load's effect. -/
theorem State.loadAt_effect {i : Instr} (s : State) (n : Nat) (extend : Word → Word) {rd : RegIdx} (rs1 : RegIdx)
    (imm : BitVec 12) (hrd : destReg i = some rd) (hst : storeAccess i = none) :
    Effect i s (s.loadAt n extend rd rs1 imm) := by
  rcases s.loadAt_cases n extend rd rs1 imm with ⟨v, -, h⟩ | ⟨-, h⟩ <;> rw [h]
  · exact .write _ _ _ hrd hst
  · exact .ended _ (by simp)

/-- A store's effect. -/
theorem State.storeAt_effect {i : Instr} (s : State) {n : Nat} {rs2 rs1 : RegIdx} {imm : BitVec 12}
    (hst : storeAccess i = some (n, rs2, rs1, imm)) : Effect i s (s.storeAt n rs2 rs1 imm) := by
  rcases s.storeAt_cases n rs2 rs1 imm with ⟨hok, h⟩ | ⟨-, h⟩ <;> rw [h]
  · exact .stored _ _ _ _ hst hok
  · exact .ended _ (by simp)

/-- Every instruction answers a next state of one of the four shapes. -/
theorem exec_effect (i : Instr) (s : State) : ∃ t, exec i s = .next t ∧ Effect i s t := by
  cases i with
  | lb rd rs1 imm => exact ⟨_, rfl, s.loadAt_effect 1 (sext 8) rs1 imm rfl rfl⟩
  | lh rd rs1 imm => exact ⟨_, rfl, s.loadAt_effect 2 (sext 16) rs1 imm rfl rfl⟩
  | lw rd rs1 imm => exact ⟨_, rfl, s.loadAt_effect 4 (fun v => v) rs1 imm rfl rfl⟩
  | lbu rd rs1 imm => exact ⟨_, rfl, s.loadAt_effect 1 (zext 8) rs1 imm rfl rfl⟩
  | lhu rd rs1 imm => exact ⟨_, rfl, s.loadAt_effect 2 (zext 16) rs1 imm rfl rfl⟩
  | sb rs2 rs1 imm => exact ⟨_, rfl, s.storeAt_effect rfl⟩
  | sh rs2 rs1 imm => exact ⟨_, rfl, s.storeAt_effect rfl⟩
  | sw rs2 rs1 imm => exact ⟨_, rfl, s.storeAt_effect rfl⟩
  | ecall => exact ⟨_, rfl, .ended _ (syscallOutcome_ne_running _ _)⟩
  | _ => first | exact ⟨_, rfl, .write _ _ _ rfl rfl⟩ | exact ⟨_, rfl, .goTo _ rfl⟩

/-- An instruction with a load access runs the shared load. -/
theorem exec_of_loadAccess {i : Instr} {n : Nat} {rs1 : RegIdx} {imm : BitVec 12}
    (h : loadAccess i = some (n, rs1, imm)) :
    ∃ extend rd, destReg i = some rd ∧ ∀ s, exec i s = .next (s.loadAt n extend rd rs1 imm) := by
  cases i <;> simp [loadAccess] at h <;> obtain ⟨rfl, rfl, rfl⟩ := h <;> exact ⟨_, _, rfl, fun s => rfl⟩

/-- An instruction with a store access runs the shared store. -/
theorem exec_of_storeAccess {i : Instr} {n : Nat} {rs2 rs1 : RegIdx} {imm : BitVec 12}
    (h : storeAccess i = some (n, rs2, rs1, imm)) :
    (n = 1 ∨ n = 2 ∨ n = 4) ∧ ∀ s, exec i s = .next (s.storeAt n rs2 rs1 imm) := by
  cases i <;> simp [storeAccess] at h <;> obtain ⟨rfl, rfl, rfl, rfl⟩ := h <;>
    simp [exec, execSb, execSh, execSw]

end Sys2Proof.Machine
end

