-- ==== Sys2Proof/Laws/Fields.lean ====
section
/-! SUPPORT. Each field of an encoded word reads back, format by format (R61, R62). -/

namespace Sys2Proof

section RFormat
variable (f7 : BitVec 7) (rs2 rs1 rd : RegIdx) (f3 : BitVec 3) (op : BitVec 7)

@[simp] theorem fieldOpcode_encodeR : fieldOpcode (encodeR f7 rs2 rs1 f3 rd op) = op := by
  unfold fieldOpcode encodeR; ext k hk
  simp only [BitVec.getElem_extractLsb', BitVec.getLsbD_append]
  interval_cases k <;> simp

@[simp] theorem fieldRd_encodeR : fieldRd (encodeR f7 rs2 rs1 f3 rd op) = rd := by
  unfold fieldRd encodeR; ext k hk
  simp only [BitVec.getElem_extractLsb', BitVec.getLsbD_append]
  interval_cases k <;> simp

@[simp] theorem fieldFunct3_encodeR : fieldFunct3 (encodeR f7 rs2 rs1 f3 rd op) = f3 := by
  unfold fieldFunct3 encodeR; ext k hk
  simp only [BitVec.getElem_extractLsb', BitVec.getLsbD_append]
  interval_cases k <;> simp

@[simp] theorem fieldRs1_encodeR : fieldRs1 (encodeR f7 rs2 rs1 f3 rd op) = rs1 := by
  unfold fieldRs1 encodeR; ext k hk
  simp only [BitVec.getElem_extractLsb', BitVec.getLsbD_append]
  interval_cases k <;> simp

@[simp] theorem fieldRs2_encodeR : fieldRs2 (encodeR f7 rs2 rs1 f3 rd op) = rs2 := by
  unfold fieldRs2 encodeR; ext k hk
  simp only [BitVec.getElem_extractLsb', BitVec.getLsbD_append]
  interval_cases k <;> simp

@[simp] theorem fieldFunct7_encodeR : fieldFunct7 (encodeR f7 rs2 rs1 f3 rd op) = f7 := by
  unfold fieldFunct7 encodeR; ext k hk
  simp only [BitVec.getElem_extractLsb', BitVec.getLsbD_append]
  interval_cases k <;> simp

/-- The six fields are the whole word: no bit is outside them. -/
theorem encodeR_fields (w : Word) :
    encodeR (fieldFunct7 w) (fieldRs2 w) (fieldRs1 w) (fieldFunct3 w) (fieldRd w) (fieldOpcode w) = w := by
  unfold encodeR fieldFunct7 fieldRs2 fieldRs1 fieldFunct3 fieldRd fieldOpcode; ext k hk
  simp only [BitVec.getElem_append, BitVec.getElem_extractLsb']
  interval_cases k <;> simp

end RFormat

/-! The other formats lie over the R format's fields: each encoder is `encodeR` of its fragments. -/

theorem encodeI_eq (imm : BitVec 12) (rs1 : RegIdx) (f3 : BitVec 3) (rd : RegIdx) (op : BitVec 7) :
    encodeI imm rs1 f3 rd op = encodeR (imm.extractLsb' 5 7) (imm.extractLsb' 0 5) rs1 f3 rd op := by
  unfold encodeI encodeR; ext k hk
  simp only [BitVec.getElem_append, BitVec.getElem_extractLsb']
  interval_cases k <;> simp

theorem encodeS_eq (imm : BitVec 12) (rs2 rs1 : RegIdx) (f3 : BitVec 3) (op : BitVec 7) :
    encodeS imm rs2 rs1 f3 op = encodeR (imm.extractLsb' 5 7) rs2 rs1 f3 (imm.extractLsb' 0 5) op := rfl

theorem encodeB_eq (offset : BitVec 13) (rs2 rs1 : RegIdx) (f3 : BitVec 3) (op : BitVec 7) :
    encodeB offset rs2 rs1 f3 op = encodeR (offset.extractLsb' 12 1 ++ offset.extractLsb' 5 6) rs2 rs1 f3
      (offset.extractLsb' 1 4 ++ offset.extractLsb' 11 1) op := by
  unfold encodeB encodeR; ext k hk
  simp only [BitVec.getElem_append]
  interval_cases k <;> simp

theorem encodeU_eq (imm20 : BitVec 20) (rd : RegIdx) (op : BitVec 7) :
    encodeU imm20 rd op = encodeR (imm20.extractLsb' 13 7) (imm20.extractLsb' 8 5) (imm20.extractLsb' 3 5)
      (imm20.extractLsb' 0 3) rd op := by
  unfold encodeU encodeR; ext k hk
  simp only [BitVec.getElem_append, BitVec.getElem_extractLsb']
  interval_cases k <;> simp

theorem encodeJ_eq (offset : BitVec 21) (rd : RegIdx) (op : BitVec 7) :
    encodeJ offset rd op = encodeR (offset.extractLsb' 20 1 ++ offset.extractLsb' 5 6)
      (offset.extractLsb' 1 4 ++ offset.extractLsb' 11 1) (offset.extractLsb' 15 5) (offset.extractLsb' 12 3) rd op := by
  unfold encodeJ encodeR; ext k hk
  simp only [BitVec.getElem_append]
  interval_cases k <;> simp

/-! The R format's fields, where the other formats have them too. -/

@[simp] theorem fieldOpcode_encodeI (imm : BitVec 12) (rs1 rd : RegIdx) (f3 : BitVec 3) (op : BitVec 7) :
    fieldOpcode (encodeI imm rs1 f3 rd op) = op := by
  simp [encodeI_eq]

@[simp] theorem fieldRd_encodeI (imm : BitVec 12) (rs1 rd : RegIdx) (f3 : BitVec 3) (op : BitVec 7) :
    fieldRd (encodeI imm rs1 f3 rd op) = rd := by
  simp [encodeI_eq]

@[simp] theorem fieldFunct3_encodeI (imm : BitVec 12) (rs1 rd : RegIdx) (f3 : BitVec 3) (op : BitVec 7) :
    fieldFunct3 (encodeI imm rs1 f3 rd op) = f3 := by
  simp [encodeI_eq]

@[simp] theorem fieldRs1_encodeI (imm : BitVec 12) (rs1 rd : RegIdx) (f3 : BitVec 3) (op : BitVec 7) :
    fieldRs1 (encodeI imm rs1 f3 rd op) = rs1 := by
  simp [encodeI_eq]

@[simp] theorem fieldOpcode_encodeS (imm : BitVec 12) (rs2 rs1 : RegIdx) (f3 : BitVec 3) (op : BitVec 7) :
    fieldOpcode (encodeS imm rs2 rs1 f3 op) = op := by
  simp [encodeS_eq]

@[simp] theorem fieldFunct3_encodeS (imm : BitVec 12) (rs2 rs1 : RegIdx) (f3 : BitVec 3) (op : BitVec 7) :
    fieldFunct3 (encodeS imm rs2 rs1 f3 op) = f3 := by
  simp [encodeS_eq]

@[simp] theorem fieldRs1_encodeS (imm : BitVec 12) (rs2 rs1 : RegIdx) (f3 : BitVec 3) (op : BitVec 7) :
    fieldRs1 (encodeS imm rs2 rs1 f3 op) = rs1 := by
  simp [encodeS_eq]

@[simp] theorem fieldRs2_encodeS (imm : BitVec 12) (rs2 rs1 : RegIdx) (f3 : BitVec 3) (op : BitVec 7) :
    fieldRs2 (encodeS imm rs2 rs1 f3 op) = rs2 := by
  simp [encodeS_eq]

@[simp] theorem fieldOpcode_encodeB (offset : BitVec 13) (rs2 rs1 : RegIdx) (f3 : BitVec 3) (op : BitVec 7) :
    fieldOpcode (encodeB offset rs2 rs1 f3 op) = op := by
  simp [encodeB_eq]

@[simp] theorem fieldFunct3_encodeB (offset : BitVec 13) (rs2 rs1 : RegIdx) (f3 : BitVec 3) (op : BitVec 7) :
    fieldFunct3 (encodeB offset rs2 rs1 f3 op) = f3 := by
  simp [encodeB_eq]

@[simp] theorem fieldRs1_encodeB (offset : BitVec 13) (rs2 rs1 : RegIdx) (f3 : BitVec 3) (op : BitVec 7) :
    fieldRs1 (encodeB offset rs2 rs1 f3 op) = rs1 := by
  simp [encodeB_eq]

@[simp] theorem fieldRs2_encodeB (offset : BitVec 13) (rs2 rs1 : RegIdx) (f3 : BitVec 3) (op : BitVec 7) :
    fieldRs2 (encodeB offset rs2 rs1 f3 op) = rs2 := by
  simp [encodeB_eq]

@[simp] theorem fieldOpcode_encodeU (imm20 : BitVec 20) (rd : RegIdx) (op : BitVec 7) :
    fieldOpcode (encodeU imm20 rd op) = op := by
  simp [encodeU_eq]

@[simp] theorem fieldRd_encodeU (imm20 : BitVec 20) (rd : RegIdx) (op : BitVec 7) :
    fieldRd (encodeU imm20 rd op) = rd := by
  simp [encodeU_eq]

@[simp] theorem fieldOpcode_encodeJ (offset : BitVec 21) (rd : RegIdx) (op : BitVec 7) :
    fieldOpcode (encodeJ offset rd op) = op := by
  simp [encodeJ_eq]

@[simp] theorem fieldRd_encodeJ (offset : BitVec 21) (rd : RegIdx) (op : BitVec 7) :
    fieldRd (encodeJ offset rd op) = rd := by
  simp [encodeJ_eq]

/-- Masking a word to its opcode, funct3 and funct7 keeps those fields and clears the operands. -/
theorem encodeR_and_maskR (f7 : BitVec 7) (rs2 rs1 rd : RegIdx) (f3 : BitVec 3) (op : BitVec 7) :
    encodeR f7 rs2 rs1 f3 rd op &&& 0xfe00707f = encodeR f7 0 0 f3 0 op := by
  unfold encodeR; refine BitVec.eq_of_getLsbD_eq fun k hk => ?_
  simp only [BitVec.getLsbD_append, BitVec.getLsbD_and]
  interval_cases k <;> simp

/-- Masking a word to its opcode and funct3. -/
theorem encodeR_and_maskI (f7 : BitVec 7) (rs2 rs1 rd : RegIdx) (f3 : BitVec 3) (op : BitVec 7) :
    encodeR f7 rs2 rs1 f3 rd op &&& 0x0000707f = encodeR 0 0 0 f3 0 op := by
  unfold encodeR; refine BitVec.eq_of_getLsbD_eq fun k hk => ?_
  simp only [BitVec.getLsbD_append, BitVec.getLsbD_and]
  interval_cases k <;> simp

/-- Masking a word to its opcode. -/
theorem encodeR_and_maskU (f7 : BitVec 7) (rs2 rs1 rd : RegIdx) (f3 : BitVec 3) (op : BitVec 7) :
    encodeR f7 rs2 rs1 f3 rd op &&& 0x0000007f = encodeR 0 0 0 0 0 op := by
  unfold encodeR; refine BitVec.eq_of_getLsbD_eq fun k hk => ?_
  simp only [BitVec.getLsbD_append, BitVec.getLsbD_and]
  interval_cases k <;> simp

/-! The immediates read back from an encoded word. -/

@[simp] theorem immI_encodeI (imm : BitVec 12) (rs1 : RegIdx) (f3 : BitVec 3) (rd : RegIdx) (op : BitVec 7) :
    immI (encodeI imm rs1 f3 rd op) = imm := by
  unfold immI encodeI; ext k hk
  simp only [BitVec.getElem_extractLsb', BitVec.getLsbD_append]
  interval_cases k <;> simp

@[simp] theorem immS_encodeS (imm : BitVec 12) (rs2 rs1 : RegIdx) (f3 : BitVec 3) (op : BitVec 7) :
    immS (encodeS imm rs2 rs1 f3 op) = imm := by
  unfold immS encodeS; ext k hk
  simp only [BitVec.getElem_append, BitVec.getElem_extractLsb', BitVec.getLsbD_append, BitVec.getLsbD_extractLsb']
  interval_cases k <;> simp

theorem immB_encodeB (offset : BitVec 13) (h : branchOffsetOk offset = true) (rs2 rs1 : RegIdx) (f3 : BitVec 3)
    (op : BitVec 7) : immB (encodeB offset rs2 rs1 f3 op) = offset := by
  have h0 : offset.getLsbD 0 = false := by simpa [branchOffsetOk] using h
  unfold immB encodeB; ext k hk
  simp only [BitVec.getElem_append, BitVec.getElem_extractLsb', BitVec.getLsbD_append, BitVec.getLsbD_extractLsb']
  interval_cases k <;> simp_all

@[simp] theorem immU_encodeU (imm20 : BitVec 20) (rd : RegIdx) (op : BitVec 7) :
    immU (encodeU imm20 rd op) = imm20 := by
  unfold immU encodeU; ext k hk
  simp only [BitVec.getElem_extractLsb', BitVec.getLsbD_append]
  interval_cases k <;> simp

theorem immJ_encodeJ (offset : BitVec 21) (h : jumpOffsetOk offset = true) (rd : RegIdx) (op : BitVec 7) :
    immJ (encodeJ offset rd op) = offset := by
  have h0 : offset.getLsbD 0 = false := by simpa [jumpOffsetOk] using h
  unfold immJ encodeJ; ext k hk
  simp only [BitVec.getElem_append, BitVec.getElem_extractLsb', BitVec.getLsbD_append, BitVec.getLsbD_extractLsb']
  interval_cases k <;> simp_all

/-! A word is its fields and its immediate, format by format: no bit is outside them. -/

theorem encodeI_fields (w : Word) :
    encodeI (immI w) (fieldRs1 w) (fieldFunct3 w) (fieldRd w) (fieldOpcode w) = w := by
  unfold encodeI immI fieldRs1 fieldFunct3 fieldRd fieldOpcode
  refine BitVec.eq_of_getLsbD_eq fun k hk => ?_
  simp only [BitVec.getLsbD_append, BitVec.getLsbD_extractLsb']
  interval_cases k <;> simp

theorem encodeS_fields (w : Word) :
    encodeS (immS w) (fieldRs2 w) (fieldRs1 w) (fieldFunct3 w) (fieldOpcode w) = w := by
  unfold encodeS immS fieldRs2 fieldRs1 fieldFunct3 fieldOpcode
  refine BitVec.eq_of_getLsbD_eq fun k hk => ?_
  simp only [BitVec.getLsbD_append, BitVec.getLsbD_extractLsb']
  interval_cases k <;> simp

theorem encodeB_fields (w : Word) :
    encodeB (immB w) (fieldRs2 w) (fieldRs1 w) (fieldFunct3 w) (fieldOpcode w) = w := by
  unfold encodeB immB fieldRs2 fieldRs1 fieldFunct3 fieldOpcode
  refine BitVec.eq_of_getLsbD_eq fun k hk => ?_
  simp only [BitVec.getLsbD_append, BitVec.getLsbD_extractLsb']
  interval_cases k <;> simp

theorem encodeU_fields (w : Word) :
    encodeU (immU w) (fieldRd w) (fieldOpcode w) = w := by
  unfold encodeU immU fieldRd fieldOpcode
  refine BitVec.eq_of_getLsbD_eq fun k hk => ?_
  simp only [BitVec.getLsbD_append, BitVec.getLsbD_extractLsb']
  interval_cases k <;> simp

theorem encodeJ_fields (w : Word) :
    encodeJ (immJ w) (fieldRd w) (fieldOpcode w) = w := by
  unfold encodeJ immJ fieldRd fieldOpcode
  refine BitVec.eq_of_getLsbD_eq fun k hk => ?_
  simp only [BitVec.getLsbD_append, BitVec.getLsbD_extractLsb']
  interval_cases k <;> simp

/-! A decoded offset is even: bit 0 is forced to 0 (R66, R68). -/

@[simp] theorem branchOffsetOk_immB (w : Word) : branchOffsetOk (immB w) = true := by
  unfold branchOffsetOk immB
  simp only [BitVec.getLsbD_append]
  simp

@[simp] theorem jumpOffsetOk_immJ (w : Word) : jumpOffsetOk (immJ w) = true := by
  unfold jumpOffsetOk immJ
  simp only [BitVec.getLsbD_append]
  simp

end Sys2Proof
end

