-- ==== Sys2Proof/Laws/Operands.lean ====
section
/-! SUPPORT. The operand forms and comparisons as integers (R10, R12, R64 to R68, R103). -/

namespace Sys2Proof.Machine

@[simp] theorem shiftAmount_eq (v : Word) : shiftAmount v = v.toNat % 32 := by
  simp [shiftAmount]

@[simp] theorem immWord_toInt (imm : BitVec 12) : (immWord imm).toInt = imm.toInt :=
  BitVec.toInt_signExtend_of_le (by omega)

@[simp] theorem branchWord_toInt (offset : BitVec 13) : (branchWord offset).toInt = offset.toInt :=
  BitVec.toInt_signExtend_of_le (by omega)

@[simp] theorem jumpWord_toInt (offset : BitVec 21) : (jumpWord offset).toInt = offset.toInt :=
  BitVec.toInt_signExtend_of_le (by omega)

@[simp] theorem ltSigned_iff {a b : Word} : ltSigned a b = true ↔ a.toInt < b.toInt := by
  simp [ltSigned]

@[simp] theorem ltUnsigned_iff {a b : Word} : ltUnsigned a b = true ↔ a.toNat < b.toNat := by
  simp [ltUnsigned]

@[simp] theorem boolWord_toNat (c : Bool) : (boolWord c).toNat = if c then 1 else 0 := by
  cases c <;> rfl

end Sys2Proof.Machine
end

