-- ==== Sys2Proof/Laws/PerInstr.lean ====
section
/-! SUPPORT. Statements made of every instruction as syntax, one lemma per constructor. -/

namespace Sys2Proof

/-- The instruction's word is one of its own row of `opcode_table.json`: the bits under the row's mask are the
row's match. -/
def Laws.EncodesItsRow.Statement (i : Instr) : Prop :=
  ∀ row ∈ opcodeTable, row.mnemonic = i.mnemonic → encode i &&& row.mask = row.value

/-- The row of one mnemonic, found by looking. -/
theorem Laws.EncodesItsRow.of_row {i : Instr} {name : String} {value mask : Word} (hname : i.mnemonic = name)
    (hrow : (opcodeTable.filter fun r => r.mnemonic == name) = [⟨name, value, mask⟩])
    (h : encode i &&& mask = value) : Laws.EncodesItsRow.Statement i := by
  intro row hmem hn
  have : row ∈ opcodeTable.filter fun r => r.mnemonic == name :=
    List.mem_filter.2 ⟨hmem, by simp [hn, hname]⟩
  rw [hrow, List.mem_singleton] at this
  subst this
  exact h

theorem Laws.EncodesItsRow.add (rd rs1 rs2 : RegIdx) :
    Laws.EncodesItsRow.Statement (.add rd rs1 rs2) :=
  Laws.EncodesItsRow.of_row (name := "ADD") (hname := rfl) (value := 0x00000033) (mask := 0xfe00707f) (hrow := by decide)
    (h := by
      simp only [encode, encodeR_and_maskR]
      decide)

theorem Laws.EncodesItsRow.sub (rd rs1 rs2 : RegIdx) :
    Laws.EncodesItsRow.Statement (.sub rd rs1 rs2) :=
  Laws.EncodesItsRow.of_row (name := "SUB") (hname := rfl) (value := 0x40000033) (mask := 0xfe00707f) (hrow := by decide)
    (h := by
      simp only [encode, encodeR_and_maskR]
      decide)

theorem Laws.EncodesItsRow.sll (rd rs1 rs2 : RegIdx) :
    Laws.EncodesItsRow.Statement (.sll rd rs1 rs2) :=
  Laws.EncodesItsRow.of_row (name := "SLL") (hname := rfl) (value := 0x00001033) (mask := 0xfe00707f) (hrow := by decide)
    (h := by
      simp only [encode, encodeR_and_maskR]
      decide)

theorem Laws.EncodesItsRow.slt (rd rs1 rs2 : RegIdx) :
    Laws.EncodesItsRow.Statement (.slt rd rs1 rs2) :=
  Laws.EncodesItsRow.of_row (name := "SLT") (hname := rfl) (value := 0x00002033) (mask := 0xfe00707f) (hrow := by decide)
    (h := by
      simp only [encode, encodeR_and_maskR]
      decide)

theorem Laws.EncodesItsRow.sltu (rd rs1 rs2 : RegIdx) :
    Laws.EncodesItsRow.Statement (.sltu rd rs1 rs2) :=
  Laws.EncodesItsRow.of_row (name := "SLTU") (hname := rfl) (value := 0x00003033) (mask := 0xfe00707f) (hrow := by decide)
    (h := by
      simp only [encode, encodeR_and_maskR]
      decide)

theorem Laws.EncodesItsRow.xor (rd rs1 rs2 : RegIdx) :
    Laws.EncodesItsRow.Statement (.xor rd rs1 rs2) :=
  Laws.EncodesItsRow.of_row (name := "XOR") (hname := rfl) (value := 0x00004033) (mask := 0xfe00707f) (hrow := by decide)
    (h := by
      simp only [encode, encodeR_and_maskR]
      decide)

theorem Laws.EncodesItsRow.srl (rd rs1 rs2 : RegIdx) :
    Laws.EncodesItsRow.Statement (.srl rd rs1 rs2) :=
  Laws.EncodesItsRow.of_row (name := "SRL") (hname := rfl) (value := 0x00005033) (mask := 0xfe00707f) (hrow := by decide)
    (h := by
      simp only [encode, encodeR_and_maskR]
      decide)

theorem Laws.EncodesItsRow.sra (rd rs1 rs2 : RegIdx) :
    Laws.EncodesItsRow.Statement (.sra rd rs1 rs2) :=
  Laws.EncodesItsRow.of_row (name := "SRA") (hname := rfl) (value := 0x40005033) (mask := 0xfe00707f) (hrow := by decide)
    (h := by
      simp only [encode, encodeR_and_maskR]
      decide)

theorem Laws.EncodesItsRow.or (rd rs1 rs2 : RegIdx) :
    Laws.EncodesItsRow.Statement (.or rd rs1 rs2) :=
  Laws.EncodesItsRow.of_row (name := "OR") (hname := rfl) (value := 0x00006033) (mask := 0xfe00707f) (hrow := by decide)
    (h := by
      simp only [encode, encodeR_and_maskR]
      decide)

theorem Laws.EncodesItsRow.and (rd rs1 rs2 : RegIdx) :
    Laws.EncodesItsRow.Statement (.and rd rs1 rs2) :=
  Laws.EncodesItsRow.of_row (name := "AND") (hname := rfl) (value := 0x00007033) (mask := 0xfe00707f) (hrow := by decide)
    (h := by
      simp only [encode, encodeR_and_maskR]
      decide)

theorem Laws.EncodesItsRow.mul (rd rs1 rs2 : RegIdx) :
    Laws.EncodesItsRow.Statement (.mul rd rs1 rs2) :=
  Laws.EncodesItsRow.of_row (name := "MUL") (hname := rfl) (value := 0x02000033) (mask := 0xfe00707f) (hrow := by decide)
    (h := by
      simp only [encode, encodeR_and_maskR]
      decide)

theorem Laws.EncodesItsRow.mulh (rd rs1 rs2 : RegIdx) :
    Laws.EncodesItsRow.Statement (.mulh rd rs1 rs2) :=
  Laws.EncodesItsRow.of_row (name := "MULH") (hname := rfl) (value := 0x02001033) (mask := 0xfe00707f) (hrow := by decide)
    (h := by
      simp only [encode, encodeR_and_maskR]
      decide)

theorem Laws.EncodesItsRow.mulhsu (rd rs1 rs2 : RegIdx) :
    Laws.EncodesItsRow.Statement (.mulhsu rd rs1 rs2) :=
  Laws.EncodesItsRow.of_row (name := "MULHSU") (hname := rfl) (value := 0x02002033) (mask := 0xfe00707f) (hrow := by decide)
    (h := by
      simp only [encode, encodeR_and_maskR]
      decide)

theorem Laws.EncodesItsRow.mulhu (rd rs1 rs2 : RegIdx) :
    Laws.EncodesItsRow.Statement (.mulhu rd rs1 rs2) :=
  Laws.EncodesItsRow.of_row (name := "MULHU") (hname := rfl) (value := 0x02003033) (mask := 0xfe00707f) (hrow := by decide)
    (h := by
      simp only [encode, encodeR_and_maskR]
      decide)

theorem Laws.EncodesItsRow.div (rd rs1 rs2 : RegIdx) :
    Laws.EncodesItsRow.Statement (.div rd rs1 rs2) :=
  Laws.EncodesItsRow.of_row (name := "DIV") (hname := rfl) (value := 0x02004033) (mask := 0xfe00707f) (hrow := by decide)
    (h := by
      simp only [encode, encodeR_and_maskR]
      decide)

theorem Laws.EncodesItsRow.divu (rd rs1 rs2 : RegIdx) :
    Laws.EncodesItsRow.Statement (.divu rd rs1 rs2) :=
  Laws.EncodesItsRow.of_row (name := "DIVU") (hname := rfl) (value := 0x02005033) (mask := 0xfe00707f) (hrow := by decide)
    (h := by
      simp only [encode, encodeR_and_maskR]
      decide)

theorem Laws.EncodesItsRow.rem (rd rs1 rs2 : RegIdx) :
    Laws.EncodesItsRow.Statement (.rem rd rs1 rs2) :=
  Laws.EncodesItsRow.of_row (name := "REM") (hname := rfl) (value := 0x02006033) (mask := 0xfe00707f) (hrow := by decide)
    (h := by
      simp only [encode, encodeR_and_maskR]
      decide)

theorem Laws.EncodesItsRow.remu (rd rs1 rs2 : RegIdx) :
    Laws.EncodesItsRow.Statement (.remu rd rs1 rs2) :=
  Laws.EncodesItsRow.of_row (name := "REMU") (hname := rfl) (value := 0x02007033) (mask := 0xfe00707f) (hrow := by decide)
    (h := by
      simp only [encode, encodeR_and_maskR]
      decide)

theorem Laws.EncodesItsRow.addi (rd rs1 : RegIdx) (imm : BitVec 12) :
    Laws.EncodesItsRow.Statement (.addi rd rs1 imm) :=
  Laws.EncodesItsRow.of_row (name := "ADDI") (hname := rfl) (value := 0x00000013) (mask := 0x0000707f) (hrow := by decide)
    (h := by
      simp only [encode, encodeI_eq, encodeR_and_maskI]
      decide)

theorem Laws.EncodesItsRow.slti (rd rs1 : RegIdx) (imm : BitVec 12) :
    Laws.EncodesItsRow.Statement (.slti rd rs1 imm) :=
  Laws.EncodesItsRow.of_row (name := "SLTI") (hname := rfl) (value := 0x00002013) (mask := 0x0000707f) (hrow := by decide)
    (h := by
      simp only [encode, encodeI_eq, encodeR_and_maskI]
      decide)

theorem Laws.EncodesItsRow.sltiu (rd rs1 : RegIdx) (imm : BitVec 12) :
    Laws.EncodesItsRow.Statement (.sltiu rd rs1 imm) :=
  Laws.EncodesItsRow.of_row (name := "SLTIU") (hname := rfl) (value := 0x00003013) (mask := 0x0000707f) (hrow := by decide)
    (h := by
      simp only [encode, encodeI_eq, encodeR_and_maskI]
      decide)

theorem Laws.EncodesItsRow.xori (rd rs1 : RegIdx) (imm : BitVec 12) :
    Laws.EncodesItsRow.Statement (.xori rd rs1 imm) :=
  Laws.EncodesItsRow.of_row (name := "XORI") (hname := rfl) (value := 0x00004013) (mask := 0x0000707f) (hrow := by decide)
    (h := by
      simp only [encode, encodeI_eq, encodeR_and_maskI]
      decide)

theorem Laws.EncodesItsRow.ori (rd rs1 : RegIdx) (imm : BitVec 12) :
    Laws.EncodesItsRow.Statement (.ori rd rs1 imm) :=
  Laws.EncodesItsRow.of_row (name := "ORI") (hname := rfl) (value := 0x00006013) (mask := 0x0000707f) (hrow := by decide)
    (h := by
      simp only [encode, encodeI_eq, encodeR_and_maskI]
      decide)

theorem Laws.EncodesItsRow.andi (rd rs1 : RegIdx) (imm : BitVec 12) :
    Laws.EncodesItsRow.Statement (.andi rd rs1 imm) :=
  Laws.EncodesItsRow.of_row (name := "ANDI") (hname := rfl) (value := 0x00007013) (mask := 0x0000707f) (hrow := by decide)
    (h := by
      simp only [encode, encodeI_eq, encodeR_and_maskI]
      decide)

theorem Laws.EncodesItsRow.slli (rd rs1 : RegIdx) (shamt : BitVec 5) :
    Laws.EncodesItsRow.Statement (.slli rd rs1 shamt) :=
  Laws.EncodesItsRow.of_row (name := "SLLI") (hname := rfl) (value := 0x00001013) (mask := 0xfe00707f) (hrow := by decide)
    (h := by
      simp only [encode, encodeR_and_maskR]
      decide)

theorem Laws.EncodesItsRow.srli (rd rs1 : RegIdx) (shamt : BitVec 5) :
    Laws.EncodesItsRow.Statement (.srli rd rs1 shamt) :=
  Laws.EncodesItsRow.of_row (name := "SRLI") (hname := rfl) (value := 0x00005013) (mask := 0xfe00707f) (hrow := by decide)
    (h := by
      simp only [encode, encodeR_and_maskR]
      decide)

theorem Laws.EncodesItsRow.srai (rd rs1 : RegIdx) (shamt : BitVec 5) :
    Laws.EncodesItsRow.Statement (.srai rd rs1 shamt) :=
  Laws.EncodesItsRow.of_row (name := "SRAI") (hname := rfl) (value := 0x40005013) (mask := 0xfe00707f) (hrow := by decide)
    (h := by
      simp only [encode, encodeR_and_maskR]
      decide)

theorem Laws.EncodesItsRow.lb (rd rs1 : RegIdx) (imm : BitVec 12) :
    Laws.EncodesItsRow.Statement (.lb rd rs1 imm) :=
  Laws.EncodesItsRow.of_row (name := "LB") (hname := rfl) (value := 0x00000003) (mask := 0x0000707f) (hrow := by decide)
    (h := by
      simp only [encode, encodeI_eq, encodeR_and_maskI]
      decide)

theorem Laws.EncodesItsRow.lh (rd rs1 : RegIdx) (imm : BitVec 12) :
    Laws.EncodesItsRow.Statement (.lh rd rs1 imm) :=
  Laws.EncodesItsRow.of_row (name := "LH") (hname := rfl) (value := 0x00001003) (mask := 0x0000707f) (hrow := by decide)
    (h := by
      simp only [encode, encodeI_eq, encodeR_and_maskI]
      decide)

theorem Laws.EncodesItsRow.lw (rd rs1 : RegIdx) (imm : BitVec 12) :
    Laws.EncodesItsRow.Statement (.lw rd rs1 imm) :=
  Laws.EncodesItsRow.of_row (name := "LW") (hname := rfl) (value := 0x00002003) (mask := 0x0000707f) (hrow := by decide)
    (h := by
      simp only [encode, encodeI_eq, encodeR_and_maskI]
      decide)

theorem Laws.EncodesItsRow.lbu (rd rs1 : RegIdx) (imm : BitVec 12) :
    Laws.EncodesItsRow.Statement (.lbu rd rs1 imm) :=
  Laws.EncodesItsRow.of_row (name := "LBU") (hname := rfl) (value := 0x00004003) (mask := 0x0000707f) (hrow := by decide)
    (h := by
      simp only [encode, encodeI_eq, encodeR_and_maskI]
      decide)

theorem Laws.EncodesItsRow.lhu (rd rs1 : RegIdx) (imm : BitVec 12) :
    Laws.EncodesItsRow.Statement (.lhu rd rs1 imm) :=
  Laws.EncodesItsRow.of_row (name := "LHU") (hname := rfl) (value := 0x00005003) (mask := 0x0000707f) (hrow := by decide)
    (h := by
      simp only [encode, encodeI_eq, encodeR_and_maskI]
      decide)

theorem Laws.EncodesItsRow.sb (rs2 rs1 : RegIdx) (imm : BitVec 12) :
    Laws.EncodesItsRow.Statement (.sb rs2 rs1 imm) :=
  Laws.EncodesItsRow.of_row (name := "SB") (hname := rfl) (value := 0x00000023) (mask := 0x0000707f) (hrow := by decide)
    (h := by
      simp only [encode, encodeS_eq, encodeR_and_maskI]
      decide)

theorem Laws.EncodesItsRow.sh (rs2 rs1 : RegIdx) (imm : BitVec 12) :
    Laws.EncodesItsRow.Statement (.sh rs2 rs1 imm) :=
  Laws.EncodesItsRow.of_row (name := "SH") (hname := rfl) (value := 0x00001023) (mask := 0x0000707f) (hrow := by decide)
    (h := by
      simp only [encode, encodeS_eq, encodeR_and_maskI]
      decide)

theorem Laws.EncodesItsRow.sw (rs2 rs1 : RegIdx) (imm : BitVec 12) :
    Laws.EncodesItsRow.Statement (.sw rs2 rs1 imm) :=
  Laws.EncodesItsRow.of_row (name := "SW") (hname := rfl) (value := 0x00002023) (mask := 0x0000707f) (hrow := by decide)
    (h := by
      simp only [encode, encodeS_eq, encodeR_and_maskI]
      decide)

theorem Laws.EncodesItsRow.beq (rs1 rs2 : RegIdx) (offset : BitVec 13) :
    Laws.EncodesItsRow.Statement (.beq rs1 rs2 offset) :=
  Laws.EncodesItsRow.of_row (name := "BEQ") (hname := rfl) (value := 0x00000063) (mask := 0x0000707f) (hrow := by decide)
    (h := by
      simp only [encode, encodeB_eq, encodeR_and_maskI]
      decide)

theorem Laws.EncodesItsRow.bne (rs1 rs2 : RegIdx) (offset : BitVec 13) :
    Laws.EncodesItsRow.Statement (.bne rs1 rs2 offset) :=
  Laws.EncodesItsRow.of_row (name := "BNE") (hname := rfl) (value := 0x00001063) (mask := 0x0000707f) (hrow := by decide)
    (h := by
      simp only [encode, encodeB_eq, encodeR_and_maskI]
      decide)

theorem Laws.EncodesItsRow.blt (rs1 rs2 : RegIdx) (offset : BitVec 13) :
    Laws.EncodesItsRow.Statement (.blt rs1 rs2 offset) :=
  Laws.EncodesItsRow.of_row (name := "BLT") (hname := rfl) (value := 0x00004063) (mask := 0x0000707f) (hrow := by decide)
    (h := by
      simp only [encode, encodeB_eq, encodeR_and_maskI]
      decide)

theorem Laws.EncodesItsRow.bge (rs1 rs2 : RegIdx) (offset : BitVec 13) :
    Laws.EncodesItsRow.Statement (.bge rs1 rs2 offset) :=
  Laws.EncodesItsRow.of_row (name := "BGE") (hname := rfl) (value := 0x00005063) (mask := 0x0000707f) (hrow := by decide)
    (h := by
      simp only [encode, encodeB_eq, encodeR_and_maskI]
      decide)

theorem Laws.EncodesItsRow.bltu (rs1 rs2 : RegIdx) (offset : BitVec 13) :
    Laws.EncodesItsRow.Statement (.bltu rs1 rs2 offset) :=
  Laws.EncodesItsRow.of_row (name := "BLTU") (hname := rfl) (value := 0x00006063) (mask := 0x0000707f) (hrow := by decide)
    (h := by
      simp only [encode, encodeB_eq, encodeR_and_maskI]
      decide)

theorem Laws.EncodesItsRow.bgeu (rs1 rs2 : RegIdx) (offset : BitVec 13) :
    Laws.EncodesItsRow.Statement (.bgeu rs1 rs2 offset) :=
  Laws.EncodesItsRow.of_row (name := "BGEU") (hname := rfl) (value := 0x00007063) (mask := 0x0000707f) (hrow := by decide)
    (h := by
      simp only [encode, encodeB_eq, encodeR_and_maskI]
      decide)

theorem Laws.EncodesItsRow.lui (rd : RegIdx) (imm20 : BitVec 20) :
    Laws.EncodesItsRow.Statement (.lui rd imm20) :=
  Laws.EncodesItsRow.of_row (name := "LUI") (hname := rfl) (value := 0x00000037) (mask := 0x0000007f) (hrow := by decide)
    (h := by
      simp only [encode, encodeU_eq, encodeR_and_maskU]
      decide)

theorem Laws.EncodesItsRow.auipc (rd : RegIdx) (imm20 : BitVec 20) :
    Laws.EncodesItsRow.Statement (.auipc rd imm20) :=
  Laws.EncodesItsRow.of_row (name := "AUIPC") (hname := rfl) (value := 0x00000017) (mask := 0x0000007f) (hrow := by decide)
    (h := by
      simp only [encode, encodeU_eq, encodeR_and_maskU]
      decide)

theorem Laws.EncodesItsRow.jal (rd : RegIdx) (offset : BitVec 21) :
    Laws.EncodesItsRow.Statement (.jal rd offset) :=
  Laws.EncodesItsRow.of_row (name := "JAL") (hname := rfl) (value := 0x0000006f) (mask := 0x0000007f) (hrow := by decide)
    (h := by
      simp only [encode, encodeJ_eq, encodeR_and_maskU]
      decide)

theorem Laws.EncodesItsRow.jalr (rd rs1 : RegIdx) (imm : BitVec 12) :
    Laws.EncodesItsRow.Statement (.jalr rd rs1 imm) :=
  Laws.EncodesItsRow.of_row (name := "JALR") (hname := rfl) (value := 0x00000067) (mask := 0x0000707f) (hrow := by decide)
    (h := by
      simp only [encode, encodeI_eq, encodeR_and_maskI]
      decide)

theorem Laws.EncodesItsRow.ecall :
    Laws.EncodesItsRow.Statement .ecall :=
  Laws.EncodesItsRow.of_row (name := "ECALL") (hname := rfl) (value := 0x00000073) (mask := 0xffffffff) (hrow := by decide)
    (h := by decide)

end Sys2Proof
end

