-- ==== Sys2Proof/Laws/Step.lean ====
section
/-! SUPPORT. What a step can do, said once, and the outcomes of a fetch (R59, R322). -/

namespace Sys2Proof.Machine

theorem RunStatus.isRunning_iff {o : RunStatus} : o.isRunning = true ↔ o = .running := by
  cases o <;> simp [RunStatus.isRunning]

/-- A step that answers a next state ran from `Running`, and either fetch or decode ended the run, or the fetched
instruction had one of its effects. -/
theorem step_cases {s t : State} (h : step s = .next t) :
    s.status = .running ∧
      ((∃ o, s.fetchInstr = .error o ∧ t = s.terminate o) ∨
        ∃ i, s.fetchInstr = .ok i ∧ exec i s = .next t ∧ Effect i s t) := by
  rw [step] at h
  split at h
  · refine ⟨RunStatus.isRunning_iff.1 ‹_›, ?_⟩
    cases hf : s.fetchInstr with
    | error o => rw [hf] at h; exact .inl ⟨o, rfl, (Host.Outcome.next.inj h).symm⟩
    | ok i =>
      rw [hf] at h
      obtain ⟨t', h', he⟩ := exec_effect i s
      obtain rfl : t = t' := Host.Outcome.next.inj (h.symm.trans h')
      exact .inr ⟨i, rfl, h, he⟩
  · cases h

/-- A fetch answers the word at the pc, the clean end, or an addressing fault (R59). -/
theorem State.fetch_cases (s : State) :
    (∃ w, FetchesWord s w ∧ s.fetch = .ok w) ∨
    ((∀ w, ¬FetchesWord s w) ∧ s.pc.toNat = 4 * s.imem.length ∧ s.fetch = .error .endOfProgram) ∨
    ((∀ w, ¬FetchesWord s w) ∧ s.pc.toNat ≠ 4 * s.imem.length ∧
      s.fetch = .error (.addressingFault .fetch s.pc)) := by
  by_cases h : s.pc.toNat % 4 = 0 ∧ s.pc.toNat / 4 < s.imem.length
  · exact .inl ⟨_, ⟨h.1, List.getElem?_eq_getElem h.2⟩, by simp [State.fetch, h]⟩
  · have hn : ∀ w, ¬FetchesWord s w := fun w hw => h ⟨hw.1, (List.getElem?_eq_some_iff.1 hw.2).1⟩
    by_cases e : s.pc.toNat = 4 * s.imem.length
    · exact .inr (.inl ⟨hn, e, by simp [State.fetch, e]⟩)
    · exact .inr (.inr ⟨hn, e, by simp [State.fetch, h, e]⟩)

/-- Only one word stands at the pc. -/
theorem FetchesWord.unique {s : State} {w v : Word} (hw : FetchesWord s w) (hv : FetchesWord s v) : w = v :=
  Option.some.inj (hw.2.symm.trans hv.2)

/-- A fetchable word is what fetch answers. -/
theorem State.fetch_eq_ok {s : State} {w : Word} (h : FetchesWord s w) : s.fetch = .ok w := by
  obtain ⟨hlt, he⟩ := List.getElem?_eq_some_iff.1 h.2
  simp [State.fetch, h.1, hlt, he]

/-- The instruction a step executes is the one its fetched word decodes to. -/
theorem State.fetchInstr_eq_ok_iff {s : State} {i : Instr} : s.fetchInstr = .ok i ↔ FetchesInstr s i := by
  constructor
  · intro h
    rcases s.fetch_cases with ⟨w, hw, hf⟩ | ⟨-, -, hf⟩ | ⟨-, -, hf⟩ <;> simp only [State.fetchInstr, hf] at h
    · cases hd : decode w with
      | error e => simp [hd] at h
      | ok j =>
        simp only [hd, Except.ok.injEq] at h
        exact ⟨w, hw, h ▸ hd⟩
    · cases h
    · cases h
  · rintro ⟨w, hw, hd⟩
    simp [State.fetchInstr, State.fetch_eq_ok hw, hd]

end Sys2Proof.Machine
end

