-- ==== Sys2Proof/Tests/Slice0.lean ====
section
/-! SUPPORT. The model's own tests. Words and expected results are `95_test_vectors.md`'s, or are written out from the
format tables of `30_encoding.md` (R61, R62); nothing here is the model's own answer pasted back. Then one witness for
the hypotheses of each statement that has any. -/

namespace Sys2Proof.Tests

open Sys2Proof.Machine

/-! ## WellFormed: an ill-formed term for each check, refused -/

theorem test_wellFormed_refuses_odd_branch_offset :
    (Instr.beq 1 2 0x0003).wellFormed = false ∧ (Instr.bne 1 2 0x1FFF).wellFormed = false ∧
    (Instr.blt 1 2 1).wellFormed = false ∧ (Instr.bge 1 2 5).wellFormed = false ∧
    (Instr.bltu 1 2 7).wellFormed = false ∧ (Instr.bgeu 1 2 9).wellFormed = false := by decide

theorem test_wellFormed_refuses_odd_jump_offset : (Instr.jal 1 0x000001).wellFormed = false := by decide

theorem test_wellFormed_accepts_even_offsets :
    (Instr.beq 1 2 0x1FFE).wellFormed = true ∧ (Instr.jal 1 0x1FFFFE).wellFormed = true := by decide

/-! ## Decode: the word of every constructor, written field by field as R62 lays it out -/

-- OP: funct7 rs2 rs1 funct3 rd opcode, with rd = x3, rs1 = x1, rs2 = x2 (R71)
theorem test_decode_op :
    decode 0b0000000_00010_00001_000_00011_0110011 = .ok (.add 3 1 2) ∧
    decode 0b0100000_00010_00001_000_00011_0110011 = .ok (.sub 3 1 2) ∧
    decode 0b0000000_00010_00001_001_00011_0110011 = .ok (.sll 3 1 2) ∧
    decode 0b0000000_00010_00001_010_00011_0110011 = .ok (.slt 3 1 2) ∧
    decode 0b0000000_00010_00001_011_00011_0110011 = .ok (.sltu 3 1 2) ∧
    decode 0b0000000_00010_00001_100_00011_0110011 = .ok (.xor 3 1 2) ∧
    decode 0b0000000_00010_00001_101_00011_0110011 = .ok (.srl 3 1 2) ∧
    decode 0b0100000_00010_00001_101_00011_0110011 = .ok (.sra 3 1 2) ∧
    decode 0b0000000_00010_00001_110_00011_0110011 = .ok (.or 3 1 2) ∧
    decode 0b0000000_00010_00001_111_00011_0110011 = .ok (.and 3 1 2) := by decide

theorem test_decode_muldiv :
    decode 0b0000001_00010_00001_000_00011_0110011 = .ok (.mul 3 1 2) ∧
    decode 0b0000001_00010_00001_001_00011_0110011 = .ok (.mulh 3 1 2) ∧
    decode 0b0000001_00010_00001_010_00011_0110011 = .ok (.mulhsu 3 1 2) ∧
    decode 0b0000001_00010_00001_011_00011_0110011 = .ok (.mulhu 3 1 2) ∧
    decode 0b0000001_00010_00001_100_00011_0110011 = .ok (.div 3 1 2) ∧
    decode 0b0000001_00010_00001_101_00011_0110011 = .ok (.divu 3 1 2) ∧
    decode 0b0000001_00010_00001_110_00011_0110011 = .ok (.rem 3 1 2) ∧
    decode 0b0000001_00010_00001_111_00011_0110011 = .ok (.remu 3 1 2) := by decide

-- OP-IMM: imm rs1 funct3 rd opcode, with rd = x1, rs1 = x2 (R72)
theorem test_decode_opImm :
    decode 0b111111111110_00010_000_00001_0010011 = .ok (.addi 1 2 0xFFE) ∧
    decode 0b111111111110_00010_010_00001_0010011 = .ok (.slti 1 2 0xFFE) ∧
    decode 0b111111111110_00010_011_00001_0010011 = .ok (.sltiu 1 2 0xFFE) ∧
    decode 0b111111111110_00010_100_00001_0010011 = .ok (.xori 1 2 0xFFE) ∧
    decode 0b111111111110_00010_110_00001_0010011 = .ok (.ori 1 2 0xFFE) ∧
    decode 0b111111111110_00010_111_00001_0010011 = .ok (.andi 1 2 0xFFE) ∧
    decode 0b0000000_11110_00010_001_00001_0010011 = .ok (.slli 1 2 30) ∧
    decode 0b0000000_11110_00010_101_00001_0010011 = .ok (.srli 1 2 30) ∧
    decode 0b0100000_11110_00010_101_00001_0010011 = .ok (.srai 1 2 30) := by decide

-- LOAD: imm rs1 funct3 rd opcode (R73); STORE: imm[11:5] rs2 rs1 funct3 imm[4:0] opcode (R74)
theorem test_decode_load :
    decode 0b100000000011_00010_000_00110_0000011 = .ok (.lb 6 2 0x803) ∧
    decode 0b100000000011_00010_001_00110_0000011 = .ok (.lh 6 2 0x803) ∧
    decode 0b100000000011_00010_010_00110_0000011 = .ok (.lw 6 2 0x803) ∧
    decode 0b100000000011_00010_100_00110_0000011 = .ok (.lbu 6 2 0x803) ∧
    decode 0b100000000011_00010_101_00110_0000011 = .ok (.lhu 6 2 0x803) := by decide

theorem test_decode_store :
    decode 0b1000001_00101_00010_000_00010_0100011 = .ok (.sb 5 2 0b100000100010) ∧
    decode 0b1000001_00101_00010_001_00010_0100011 = .ok (.sh 5 2 0b100000100010) ∧
    decode 0b1000001_00101_00010_010_00010_0100011 = .ok (.sw 5 2 0b100000100010) := by decide

-- BRANCH: imm[12] imm[10:5] rs2 rs1 funct3 imm[4:1] imm[11] opcode (R75), offset 1 0 100001 0001 0
theorem test_decode_branch :
    decode 0b1_100001_00010_00001_000_0001_0_1100011 = .ok (.beq 1 2 0b1_0_100001_0001_0) ∧
    decode 0b1_100001_00010_00001_001_0001_0_1100011 = .ok (.bne 1 2 0b1_0_100001_0001_0) ∧
    decode 0b1_100001_00010_00001_100_0001_0_1100011 = .ok (.blt 1 2 0b1_0_100001_0001_0) ∧
    decode 0b1_100001_00010_00001_101_0001_0_1100011 = .ok (.bge 1 2 0b1_0_100001_0001_0) ∧
    decode 0b1_100001_00010_00001_110_0001_0_1100011 = .ok (.bltu 1 2 0b1_0_100001_0001_0) ∧
    decode 0b1_100001_00010_00001_111_0001_0_1100011 = .ok (.bgeu 1 2 0b1_0_100001_0001_0) ∧
    decode 0b0_000000_00010_00001_000_0000_1_1100011 = .ok (.beq 1 2 0b0_1_000000_0000_0) := by decide

-- U and J formats (R76), JALR (R77), ECALL (R78)
theorem test_decode_upper_jump_system :
    decode 0b00010010001101000101_00101_0110111 = .ok (.lui 5 0x12345) ∧
    decode 0b10000000000000000001_00101_0010111 = .ok (.auipc 5 0x80001) ∧
    decode 0b1_0000000001_0_00000010_00001_1101111 = .ok (.jal 1 0b1_00000010_0_0000000001_0) ∧
    decode 0b0_0000000000_1_00000000_00001_1101111 = .ok (.jal 1 0b0_00000000_1_0000000000_0) ∧
    decode 0b111111111111_00101_000_00001_1100111 = .ok (.jalr 1 5 0xFFF) ∧
    decode 0b000000000000_00000_000_00000_1110011 = .ok .ecall := by decide

-- Words that are no instruction (L2.1, L2.3, L2.5, L2.7, L2.8)
theorem test_decode_faults :
    [0x422081B3, 0x4020C1B3, 0x202081B3, 0x02111093, 0x42315093, 0x20315093, 0x40311093, 0x0020A863, 0x004290E7, 0x00100073,
      0x00001073, 0x000000F3, 0x00008073, 0x30200073, 0x10500073, 0x0FF0000F, 0xC0002073, 0x00000000, 0xFFFFFFFF].all (fun w => (decode w).toOption == none) = true := by decide

/-- The first word of the byte file of P1: `00500093`, little-endian (R50); a file that is no whole number of words is
no image. -/
theorem test_decode_image_bytes :
    decodeBytes [0x93, 0x00, 0x50, 0x00] = .ok (.addi 1 0 5, []) ∧ decodeBytes [0x93, 0x00, 0x50] = .error .truncated ∧
    imageOfBytes [0x93, 0x00, 0x50, 0x00, 0x73, 0x00, 0x00, 0x00] = some [0x00500093, 0x00000073] ∧
    imageOfBytes [0x93, 0x00, 0x50, 0x00, 0x73] = none ∧ decodeTableWord 32 0x00000073 = some .ecall := by decide

/-! ## One step on one word

A state with some registers set and a word at its pc; what the step leaves. -/

/-- Reset, with registers set, at a pc. -/
def stateWith (pc : Word) (regs : List (RegIdx × Word)) : State :=
  regs.foldl (fun s p => s.writeReg p.1 p.2) (State.reset.setPc pc)

/-- The state after one step on a word placed at the pc. -/
def stepOn (w : Nat) (s : State) : Option State :=
  match step (s.withFetchWord 32 w) with
  | .next t => some t
  | .fault _ => none
  | .refused _ => none

/-- Register `rd` and the pc after one step from pc 0. -/
def regAfter (w : Nat) (regs : List (RegIdx × Word)) (rd : RegIdx) : Option (Word × Word) :=
  (stepOn w (stateWith 0 regs)).map fun t => (t.readReg rd, t.pc)

/-- The pc after one step from pc 8. -/
def pcAfter (w : Nat) (regs : List (RegIdx × Word)) : Option Word :=
  (stepOn w (stateWith 8 regs)).map (·.pc)

/-- The status after one step from pc 8, when the step changed nothing else. -/
def endAfter (w : Nat) (regs : List (RegIdx × Word)) : Option RunStatus :=
  (stepOn w (stateWith 8 regs)).bind fun t =>
    if t = ((stateWith 8 regs).withFetchWord 32 w).terminate t.status then some t.status else none

-- L2.1 and L2.2
theorem test_add :
    regAfter 0x002081B3 [(1, 0x7FFFFFFF), (2, 0x1)] 3 = some (0x80000000, 4) ∧
    regAfter 0x002081B3 [(1, 0xFFFFFFFF), (2, 0x1)] 3 = some (0x0, 4) := by decide

theorem test_sub :
    regAfter 0x402081B3 [(1, 0x5), (2, 0x7)] 3 = some (0xFFFFFFFE, 4) ∧
    regAfter 0x402081B3 [(1, 0x80000000), (2, 0x1)] 3 = some (0x7FFFFFFF, 4) := by decide

theorem test_sll :
    regAfter 0x002091B3 [(1, 0x1), (2, 0x20)] 3 = some (0x1, 4) ∧
    regAfter 0x002091B3 [(1, 0x3), (2, 0xFFFFFFE1)] 3 = some (0x6, 4) := by decide

theorem test_slt :
    regAfter 0x0020A1B3 [(1, 0xFFFFFFFF), (2, 0x1)] 3 = some (0x1, 4) := by decide

theorem test_sltu :
    regAfter 0x0020B1B3 [(1, 0xFFFFFFFF), (2, 0x1)] 3 = some (0x0, 4) := by decide

theorem test_xor :
    regAfter 0x0020C1B3 [(1, 0xFF00FF00), (2, 0x0FF00FF0)] 3 = some (0xF0F0F0F0, 4) := by decide

theorem test_srl :
    regAfter 0x0020D1B3 [(1, 0x80000000), (2, 0x1F)] 3 = some (0x1, 4) ∧
    regAfter 0x0020D1B3 [(1, 0x80000000), (2, 0x20)] 3 = some (0x80000000, 4) := by decide

theorem test_sra :
    regAfter 0x4020D1B3 [(1, 0x80000000), (2, 0x4)] 3 = some (0xF8000000, 4) ∧
    regAfter 0x4020D1B3 [(1, 0x7FFFFFF0), (2, 0x24)] 3 = some (0x07FFFFFF, 4) := by decide

theorem test_or :
    regAfter 0x0020E1B3 [(1, 0xFF00FF00), (2, 0x0FF00FF0)] 3 = some (0xFFF0FFF0, 4) := by decide

theorem test_and :
    regAfter 0x0020F1B3 [(1, 0xFF00FF00), (2, 0x0FF00FF0)] 3 = some (0x0F000F00, 4) := by decide

theorem test_mul :
    regAfter 0x022081B3 [(1, 0x80000000), (2, 0xFFFFFFFF)] 3 = some (0x80000000, 4) ∧
    regAfter 0x022081B3 [(1, 0x10000), (2, 0x10000)] 3 = some (0x0, 4) := by decide

theorem test_mulh :
    regAfter 0x022091B3 [(1, 0x80000000), (2, 0x80000000)] 3 = some (0x40000000, 4) ∧
    regAfter 0x022091B3 [(1, 0xFFFFFFFF), (2, 0x1)] 3 = some (0xFFFFFFFF, 4) := by decide

theorem test_mulhsu :
    regAfter 0x0220A1B3 [(1, 0xFFFFFFFF), (2, 0xFFFFFFFF)] 3 = some (0xFFFFFFFF, 4) ∧
    regAfter 0x0220A1B3 [(1, 0x80000000), (2, 0xFFFFFFFF)] 3 = some (0x80000000, 4) ∧
    regAfter 0x0220A1B3 [(1, 0x1), (2, 0xFFFFFFFF)] 3 = some (0x0, 4) := by decide

theorem test_mulhu :
    regAfter 0x0220B1B3 [(1, 0xFFFFFFFF), (2, 0xFFFFFFFF)] 3 = some (0xFFFFFFFE, 4) ∧
    regAfter 0x0220B1B3 [(1, 0x80000000), (2, 0x2)] 3 = some (0x1, 4) := by decide

theorem test_div :
    regAfter 0x0220C1B3 [(1, 0xFFFFFFEC), (2, 0x6)] 3 = some (0xFFFFFFFD, 4) ∧
    regAfter 0x0220C1B3 [(1, 0x14), (2, 0xFFFFFFFA)] 3 = some (0xFFFFFFFD, 4) ∧
    regAfter 0x0220C1B3 [(1, 0x14), (2, 0x0)] 3 = some (0xFFFFFFFF, 4) ∧
    regAfter 0x0220C1B3 [(1, 0x80000000), (2, 0xFFFFFFFF)] 3 = some (0x80000000, 4) := by decide

theorem test_divu :
    regAfter 0x0220D1B3 [(1, 0xFFFFFFEC), (2, 0x6)] 3 = some (0x2AAAAAA7, 4) ∧
    regAfter 0x0220D1B3 [(1, 0x14), (2, 0x0)] 3 = some (0x14, 4) ∧
    regAfter 0x0220D1B3 [(1, 0x80000000), (2, 0xFFFFFFFF)] 3 = some (0x0, 4) := by decide

theorem test_rem :
    regAfter 0x0220E1B3 [(1, 0xFFFFFFEC), (2, 0x6)] 3 = some (0xFFFFFFFE, 4) ∧
    regAfter 0x0220E1B3 [(1, 0x14), (2, 0xFFFFFFFA)] 3 = some (0x2, 4) ∧
    regAfter 0x0220E1B3 [(1, 0x14), (2, 0x0)] 3 = some (0x14, 4) ∧
    regAfter 0x0220E1B3 [(1, 0x80000000), (2, 0xFFFFFFFF)] 3 = some (0x0, 4) := by decide

theorem test_remu :
    regAfter 0x0220F1B3 [(1, 0xFFFFFFEC), (2, 0x6)] 3 = some (0x2, 4) ∧
    regAfter 0x0220F1B3 [(1, 0x14), (2, 0x0)] 3 = some (0x14, 4) := by decide

/-- `ADD x1, x1, x1` reads before it writes (L2.1); `ADDI x0, x0, 5` leaves `x0` zero (S-RF). -/
theorem test_same_register_and_x0 :
    regAfter 0x001080B3 [(1, 3)] 1 = some (6, 4) ∧ regAfter 0x00500013 [] 0 = some (0, 4) := by decide

-- L2.3
theorem test_addi :
    regAfter 0xFFF10093 [(2, 0x0)] 1 = some (0xFFFFFFFF, 4) ∧
    regAfter 0x7FF10093 [(2, 0x7FFFFFFF)] 1 = some (0x800007FE, 4) := by decide

theorem test_slti :
    regAfter 0xFFF12093 [(2, 0xFFFFFFFE)] 1 = some (0x1, 4) ∧
    regAfter 0x00012093 [(2, 0x80000000)] 1 = some (0x1, 4) := by decide

theorem test_sltiu :
    regAfter 0xFFF13093 [(2, 0xFFFFFFFE)] 1 = some (0x1, 4) ∧
    regAfter 0x00113093 [(2, 0x5)] 1 = some (0x0, 4) ∧
    regAfter 0x80013093 [(2, 0xFFFFF7FF)] 1 = some (0x1, 4) := by decide

theorem test_xori :
    regAfter 0xFFF14093 [(2, 0x12345678)] 1 = some (0xEDCBA987, 4) := by decide

theorem test_ori :
    regAfter 0x80016093 [(2, 0x1)] 1 = some (0xFFFFF801, 4) := by decide

theorem test_andi :
    regAfter 0xFF017093 [(2, 0xFFFFFFF7)] 1 = some (0xFFFFFFF0, 4) ∧
    regAfter 0x0FF17093 [(2, 0x12345678)] 1 = some (0x78, 4) := by decide

theorem test_slli :
    regAfter 0x01F11093 [(2, 0x1)] 1 = some (0x80000000, 4) := by decide

theorem test_srli :
    regAfter 0x00415093 [(2, 0xF0000000)] 1 = some (0x0F000000, 4) := by decide

theorem test_srai :
    regAfter 0x40415093 [(2, 0xF0000000)] 1 = some (0xFF000000, 4) ∧
    regAfter 0x40015093 [(2, 0x80000000)] 1 = some (0x80000000, 4) := by decide

/-! Loads and stores (L2.4) -/

/-- A state at pc 0 with `x2 = 0x1000`, and the four bytes `F3 F2 81 80` at logical `0x1000` to `0x1003`, that is at
physical indices `CAPACITY − 0x1000` down to `CAPACITY − 0x1003` (L2.4, R45). -/
def loaded (d : ReadDirection) : State :=
  { stateWith 0 [(2, 0x1000)] with
    store := [(0xFEFFD, 0x80), (0xFEFFE, 0x81), (0xFEFFF, 0xF2), (0xFF000, 0xF3)], params := ⟨2 ^ 20, d⟩ }

/-- Register `rd` after a load from `loaded`. -/
def loadAfter (d : ReadDirection) (w : Nat) (rd : RegIdx) : Option Word :=
  (stepOn w (loaded d)).map (·.readReg rd)

theorem test_lb :
    loadAfter .increasingIndex 0x00010303 6 = some 0xFFFFFFF3 := by decide

theorem test_lh :
    loadAfter .increasingIndex 0x00111383 7 = some 0xFFFFF3F2 := by decide

theorem test_lhu :
    loadAfter .increasingIndex 0x00115403 8 = some 0x0000F3F2 := by decide

theorem test_lbu :
    loadAfter .increasingIndex 0x00014483 9 = some 0x000000F3 := by decide

theorem test_lw :
    loadAfter .increasingIndex 0x00312303 6 = some 0xF3F28180 ∧
    loadAfter .decreasingIndex 0x00012303 6 = some 0x8081F2F3 := by decide

/-- The store after one step from an empty one. -/
def storeAfter (w : Nat) (regs : List (RegIdx × Word)) : Option Memory :=
  (stepOn w (stateWith 0 regs)).map (·.store)

theorem test_sb :
    storeAfter 0x00510023 [(2, 0x1000), (5, 0xA1B2C3D4)] = some [(0xFF000, 0xD4)] := by decide

theorem test_sh :
    storeAfter 0x00511223 [(2, 0x1000), (5, 0xA1B2C3D4)] = some [(0xFEFFB, 0xC3), (0xFEFFC, 0xD4)] := by decide

theorem test_sw :
    storeAfter 0x00512023 [(2, 0x1000), (5, 0x11223344)] = some [(0xFEFFD, 0x11), (0xFEFFE, 0x22), (0xFEFFF, 0x33), (0xFF000, 0x44)] ∧
    storeAfter 0xFE512E23 [(2, 0x2000), (5, 0xCAFEBABE)] = some [(0xFE001, 0xCA), (0xFE002, 0xFE), (0xFE003, 0xBA), (0xFE004, 0xBE)] := by decide

/-- The bounds table of L2.4: each access at the first and last address it admits and at the nearest it does not. -/
theorem test_bounds_load :
    endAfter 0x00010303 [(2, 0)] = some (.addressingFault .load 0) ∧
    endAfter 0x00010303 [(2, 0x100001)] = some (.addressingFault .load 0x100001) ∧
    endAfter 0x00010303 [(2, 0x80000000)] = some (.addressingFault .load 0x80000000) ∧
    endAfter 0x00011303 [(2, 1)] = some (.addressingFault .load 1) ∧
    endAfter 0x00012303 [(2, 3)] = some (.addressingFault .load 3) ∧
    endAfter 0x00002003 [] = some (.addressingFault .load 0) ∧
    pcAfter 0x00010303 [(2, 1)] = some 12 ∧ pcAfter 0x00010303 [(2, 0x100000)] = some 12 ∧
    pcAfter 0x00011303 [(2, 2)] = some 12 ∧ pcAfter 0x00012303 [(2, 4)] = some 12 ∧
    pcAfter 0x00012303 [(2, 0x100000)] = some 12 := by decide

theorem test_bounds_store :
    endAfter 0x00510023 [(2, 0)] = some (.addressingFault .store 0) ∧
    endAfter 0x00510023 [(2, 0x100001)] = some (.addressingFault .store 0x100001) ∧
    endAfter 0x00511023 [(2, 0x100000)] = some (.addressingFault .store 0x100000) ∧
    endAfter 0x00512023 [(2, 0xFFFFE), (5, 0xFFFFFFFF)] = some (.addressingFault .store 0xFFFFE) ∧
    pcAfter 0x00510023 [(2, 0x100000), (5, 1)] = some 12 ∧ pcAfter 0x00511023 [(2, 0xFFFFF), (5, 1)] = some 12 ∧
    pcAfter 0x00512023 [(2, 1), (5, 1)] = some 12 ∧ pcAfter 0x00512023 [(2, 0xFFFFD), (5, 1)] = some 12 := by decide

-- L2.5
theorem test_beq :
    pcAfter 0x00208863 [(1, 0x5), (2, 0x5)] = some 0x18 ∧
    pcAfter 0x00208863 [(1, 0x5), (2, 0x6)] = some 0x0C := by decide

theorem test_bne :
    pcAfter 0x00209863 [(1, 0x5), (2, 0x6)] = some 0x18 ∧
    pcAfter 0x00209863 [(1, 0x5), (2, 0x5)] = some 0x0C := by decide

theorem test_blt :
    pcAfter 0x0020C863 [(1, 0xFFFFFFFF), (2, 0x1)] = some 0x18 ∧
    pcAfter 0x0020C863 [(1, 0x3), (2, 0x3)] = some 0x0C := by decide

theorem test_bge :
    pcAfter 0x0020D863 [(1, 0x3), (2, 0x3)] = some 0x18 ∧
    pcAfter 0x0020D863 [(1, 0xFFFFFFFF), (2, 0x1)] = some 0x0C := by decide

theorem test_bltu :
    pcAfter 0x0020E863 [(1, 0x1), (2, 0xFFFFFFFF)] = some 0x18 ∧
    pcAfter 0x0020E863 [(1, 0x3), (2, 0x3)] = some 0x0C := by decide

theorem test_bgeu :
    pcAfter 0x0020F863 [(1, 0x3), (2, 0x3)] = some 0x18 ∧
    pcAfter 0x0020F863 [(1, 0x1), (2, 0xFFFFFFFF)] = some 0x0C := by decide

theorem test_branch_offset_extremes :
    pcAfter 0xFE208CE3 [] = some 0 ∧
    pcAfter 0x7E208FE3 [] = some 0x1006 ∧
    pcAfter 0x80208063 [] = some 0xFFFFF008 := by decide

-- L2.6, L2.7
theorem test_lui :
    regAfter 0x123452B7 [] 5 = some (0x12345000, 4) ∧
    regAfter 0xFFFFF2B7 [] 5 = some (0xFFFFF000, 4) := by decide

theorem test_auipc :
    regAfter 0x00001297 [] 5 = some (0x1000, 4) ∧
    (stepOn 0xFFFFF297 (stateWith 8 [])).map (·.readReg 5) = some 0xFFFFF008 := by decide

theorem test_jal :
    pcAfter 0x008000EF [] = some 0x10 ∧
    pcAfter 0xFF9FF0EF [] = some 0 ∧
    pcAfter 0x7FFFF0EF [] = some 0x100006 ∧
    pcAfter 0x800000EF [] = some 0xFFF00008 ∧
    (stepOn 0x008000EF (stateWith 8 [])).map (·.readReg 1) = some 0x0C := by decide

theorem test_jalr :
    pcAfter 0x000280E7 [(5, 0x101)] = some 0x100 ∧
    pcAfter 0xFFF280E7 [(5, 0x100)] = some 0xFE ∧
    pcAfter 0x008280E7 [(5, 0xFFFFFFFC)] = some 4 ∧
    pcAfter 0x008282E7 [(5, 0x100)] = some 0x108 ∧
    (stepOn 0x008282E7 (stateWith 8 [(5, 0x100)])).map (·.readReg 5) = some 0x0C := by decide

-- L2.8
theorem test_ecall :
    endAfter 0x00000073 [(10, 10), (11, 5)] = some (.halted 0) ∧
    endAfter 0x00000073 [(10, 17), (11, 0xFFFFFFFF)] = some (.halted 0xFFFFFFFF) ∧
    endAfter 0x00000073 [(10, 1)] = some (.unsupportedSyscall 1) ∧
    endAfter 0x00000073 [] = some (.unsupportedSyscall 0) ∧
    endAfter 0x00100073 [] = some (.decodeFault 0x00100073) := by decide

/-! Fetch and the end of a run (L2.9), reset, dump -/

/-- The status and pc after one step of a one-word image's second fetch. -/
def secondFetch (w : Word) : Option (RunStatus × Word) :=
  match core.run 2 (State.boot Config.defaultParams [w] (Vector.replicate 31 0) []) with
  | .next t => some (t.status, t.pc)
  | .fault _ => none
  | .refused _ => none

theorem test_fetch_ends :
    secondFetch 0x00000013 = some (.endOfProgram, 4) ∧ secondFetch 0x0040006F = some (.endOfProgram, 4) ∧
    secondFetch 0x00200067 = some (.addressingFault .fetch 2, 2) ∧
    secondFetch 0x0060006F = some (.addressingFault .fetch 6, 6) ∧
    secondFetch 0x0080006F = some (.addressingFault .fetch 8, 8) ∧
    secondFetch 0x0000006F = some (.running, 0) := by decide

/-- With the empty image the first fetch is the clean end (R59, L2.9). -/
theorem test_reset_first_step : step State.reset = .next (State.reset.terminate .endOfProgram) := rfl

/-- A step of an ended run stops, and changes nothing (R286). -/
theorem test_ended_run_stops :
    step (State.reset.terminate .endOfProgram) = .fault (.runEnded .endOfProgram) := rfl

/-- The dump of P1's end begins as L2.10 gives it. -/
theorem test_dump :
    ((stateWith 0 [(1, 5), (2, 7), (3, 0x0C), (10, 0x0A)]).registerDump.take 16 =
      [0, 0, 0, 0, 5, 0, 0, 0, 7, 0, 0, 0, 0x0C, 0, 0, 0]) ∧
    ((stateWith 0 [(10, 0x0A)]).registerDump.drop 40).take 4 = [0x0A, 0, 0, 0] ∧
    (stateWith 0 []).dump = none := by decide

/-- The status fields of R28. -/
theorem test_status_fields :
    (RunStatus.addressingFault .store 0xFFFFE).kind = some .store ∧
    (RunStatus.addressingFault .store 0xFFFFE).value = 0xFFFFE ∧ (RunStatus.halted 42).value = 42 ∧
    RunStatus.endOfProgram.value = 0 ∧ (RunStatus.decodeFault 7).kind = none := by decide

/-- Writing the byte an unlisted index reads as removes the entry. -/
theorem test_memory_canonical :
    Memory.write [(3, 0x11), (5, 0x22)] 5 0 = [(3, 0x11)] ∧ Memory.write [(3, 0x11), (5, 0x22)] 4 0x33 =
      [(3, 0x11), (4, 0x33), (5, 0x22)] ∧ Memory.write [] 9 0 = [] := by decide

/-! ## Witnesses: states and operands that meet the hypotheses of each statement, clause by clause -/

/-- The bits an `OP` word is written from (R62), with `rd = x3`, `rs1 = x1`, `rs2 = x2`. -/
def opWord (funct7 : BitVec 7) (funct3 : BitVec 3) : Word :=
  funct7 ++ 2#5 ++ 1#5 ++ funct3 ++ 3#5 ++ 0b0110011#7

/-- A word of the I format with this opcode. -/
def iWord (opcode : BitVec 7) (funct3 : BitVec 3) : Word := 0x7FF#12 ++ 2#5 ++ funct3 ++ 1#5 ++ opcode

/-- A STORE or BRANCH word (R62). -/
def sbWord (opcode : BitVec 7) (funct3 : BitVec 3) : Word :=
  0b1000001#7 ++ 2#5 ++ 1#5 ++ funct3 ++ 0b10001#5 ++ opcode

/-- A state whose `x2` is the effective address `e` of an access at offset 0, with data in `x5`. -/
def atAddress (d : ReadDirection) (e : Word) : State :=
  { stateWith 0 [(2, e), (5, 0x11223344)] with params := ⟨2 ^ 20, d⟩ }

theorem witness_DecodeOfEncodeGivesTheInstruction :
    (Instr.add 3 1 2).wellFormed = true ∧ (Instr.beq 1 2 0x1FFE).wellFormed = true ∧
    (Instr.jal 1 0x100000).wellFormed = true ∧ Instr.ecall.wellFormed = true := by decide

theorem witness_EncodeOfDecodeGivesTheWord : decode 0xFE734CE3 = .ok (.blt 6 7 0x1FF8) := by decide

theorem witness_DecodeAgreesWithOpcodeTable :
    decode 0x002081B3 = .ok (.add 3 1 2) ∧ ∃ row ∈ opcodeTable, (0x002081B3 : Word) &&& row.mask = row.value := by decide

theorem witness_ImmediatesExtendTheirSignBit :
    decode 0x01F11093 = .ok (.slli 1 2 31) ∧ decode 0x00015093 = .ok (.srli 1 2 0) ∧
    decode 0x41F15093 = .ok (.srai 1 2 31) := by decide

theorem witness_UnlistedFieldsDoNotDecode_lowBits_system_jalr :
    (0x00000000 : Word).extractLsb' 0 2 ≠ 3#2 ∧
    ((0x00100073 : Word).extractLsb' 0 7 = 0b1110011#7 ∧ (0x00100073 : Word) ≠ 0x00000073) ∧
    ((0x004290E7 : Word).extractLsb' 0 7 = 0b1100111#7 ∧ (0x004290E7 : Word).extractLsb' 12 3 ≠ 0#3) := by decide

theorem witness_UnlistedFieldsDoNotDecode_op_shift :
    (∀ f7 ∈ [0b0000010#7, 0b1100000#7, 0b1111111#7], (opWord f7 0).extractLsb' 0 7 = 0b0110011#7 ∧
      (opWord f7 0).extractLsb' 25 7 ≠ 0b0000000#7 ∧ (opWord f7 0).extractLsb' 25 7 ≠ 0b0100000#7 ∧
      (opWord f7 0).extractLsb' 25 7 ≠ 0b0000001#7) ∧
    ((0x02111093 : Word).extractLsb' 0 7 = 0b0010011#7 ∧ (0x02111093 : Word).extractLsb' 12 3 = 0b001#3 ∧
      (0x02111093 : Word).extractLsb' 25 7 ≠ 0b0000000#7) := by decide

theorem witness_UnlistedFieldsDoNotDecode_op_sub_sra :
    ∀ f ∈ [1#3, 4#3, 6#3], (opWord 0x20 f).extractLsb' 0 7 = 0b0110011#7 ∧
      (opWord 0x20 f).extractLsb' 25 7 = 0b0100000#7 ∧ (opWord 0x20 f).extractLsb' 12 3 ≠ 0b000#3 ∧
      (opWord 0x20 f).extractLsb' 12 3 ≠ 0b101#3 := by decide

theorem witness_UnlistedFieldsDoNotDecode_shift_right :
    (0x20315093 : Word).extractLsb' 0 7 = 0b0010011#7 ∧ (0x20315093 : Word).extractLsb' 12 3 = 0b101#3 ∧
    (0x20315093 : Word).extractLsb' 25 7 ≠ 0b0000000#7 ∧ (0x20315093 : Word).extractLsb' 25 7 ≠ 0b0100000#7 := by decide

theorem witness_UnlistedFieldsDoNotDecode_load_store_branch :
    (∀ f ∈ [0b011#3, 0b110#3, 0b111#3], (iWord 0b0000011 f).extractLsb' 0 7 = 0b0000011#7 ∧
      (iWord 0b0000011 f).extractLsb' 12 3 ∈ [0b011#3, 0b110#3, 0b111#3]) ∧
    (∀ f ∈ [0b011#3, 0b111#3], (sbWord 0b0100011 f).extractLsb' 0 7 = 0b0100011#7 ∧
      3 ≤ ((sbWord 0b0100011 f).extractLsb' 12 3).toNat) ∧
    (∀ f ∈ [0b010#3, 0b011#3], (sbWord 0b1100011 f).extractLsb' 0 7 = 0b1100011#7 ∧
      (sbWord 0b1100011 f).extractLsb' 12 3 ∈ [0b010#3, 0b011#3]) := by decide

/-- Opcodes outside the ten of R70: MISC-MEM and AMO, which end in `11`, and the all-zero word, which does not. -/
theorem witness_UnlistedFieldsDoNotDecode_opcode :
    let listed := [0b0110011#7, 0b0010011#7, 0b0000011#7, 0b0100011#7, 0b1100011#7, 0b0110111#7, 0b0010111#7,
      0b1101111#7, 0b1100111#7, 0b1110011#7]
    (0x0FF0000F : Word).extractLsb' 0 7 ∉ listed ∧ (0x1000202F : Word).extractLsb' 0 7 ∉ listed ∧
    (0x00000000 : Word).extractLsb' 0 7 ∉ listed := by decide

/-- The words that `DecodesOp` speaks of, one for each clause of the four statements about OP. -/
theorem witness_RegisterAluResults_RightShiftResults :
    ∀ f7 ∈ [0#7, 0x20#7], ∀ f3 ∈ [0#3, 1#3, 2#3, 3#3, 4#3, 5#3, 6#3, 7#3],
      (opWord f7 f3).extractLsb' 0 7 = 0b0110011#7 ∧ (opWord f7 f3).extractLsb' 12 3 = f3 ∧
      (opWord f7 f3).extractLsb' 25 7 = f7 := by decide

theorem witness_MultiplyAndUnsignedDivideResults_SignedMultiplyDivideResults :
    ∀ f ∈ [0#3, 1#3, 2#3, 3#3, 4#3, 5#3, 6#3, 7#3], (opWord 1 f).extractLsb' 0 7 = 0b0110011#7 ∧
      (opWord 1 f).extractLsb' 12 3 = f ∧ (opWord 1 f).extractLsb' 25 7 = 1#7 := by decide

/-- An ordinary pair, the overflow pair, and divisor 0. -/
theorem witness_DivisionLaws :
    (3 : RegIdx) ≠ 0 ∧ (stateWith 0 [(1, 0xFFFFFFEC), (2, 6)]).readReg 2 ≠ 0 ∧
    ¬(((stateWith 0 [(1, 0xFFFFFFEC), (2, 6)]).readReg 1).toInt = -2 ^ 31 ∧
      ((stateWith 0 [(1, 0xFFFFFFEC), (2, 6)]).readReg 2).toInt = -1) ∧
    (((stateWith 0 [(1, 0x80000000), (2, 0xFFFFFFFF)]).readReg 1).toInt = -2 ^ 31 ∧
      ((stateWith 0 [(1, 0x80000000), (2, 0xFFFFFFFF)]).readReg 2).toInt = -1) ∧
    (stateWith 0 [(1, 20)]).readReg 2 = 0 := by decide

theorem witness_ImmediateAluResults :
    ∀ f ∈ [0#3, 2#3, 3#3, 4#3, 6#3, 7#3], (iWord 0b0010011 f).extractLsb' 0 7 = 0b0010011#7 ∧
      (iWord 0b0010011 f).extractLsb' 12 3 = f := by decide

theorem witness_ShiftImmediateResults :
    ∀ f7 ∈ [0#7, 0x20#7], ∀ f3 ∈ [1#3, 5#3], let w : Word := f7 ++ 31#5 ++ 2#5 ++ f3 ++ 1#5 ++ 0b0010011#7
      w.extractLsb' 0 7 = 0b0010011#7 ∧ w.extractLsb' 12 3 = f3 ∧ w.extractLsb' 25 7 = f7 := by decide

theorem witness_LoadsTowardIncreasingIndex_words :
    ∀ f ∈ [0#3, 1#3, 2#3, 4#3, 5#3], (iWord 0b0000011 f).extractLsb' 0 7 = 0b0000011#7 ∧
      (iWord 0b0000011 f).extractLsb' 12 3 = f := by decide

theorem atAddress_ea (d : ReadDirection) (e : Word) : e = (atAddress d e).readReg 2 + (0#12).signExtend 32 := by
  simp [atAddress, stateWith, State.readReg, State.writeReg, State.reset, State.boot, State.setPc]

/-- The hypotheses on direction, address, capacity and bytes can be met at every address. -/
theorem witness_LoadsTowardIncreasingIndex (e : Word) :
    ∃ (s : State) (ea : Word) (cap : Int) (byte : Int → Byte), ea = e ∧ cap = 2 ^ 20 ∧
      s.params.readDirection = .increasingIndex ∧ ea = s.readReg 2 + (0#12).signExtend 32 ∧ cap = s.params.capacity ∧
      ∀ k, byte k = s.logicalByte (ea.toInt - k) :=
  ⟨atAddress .increasingIndex e, e, 2 ^ 20, fun k => (atAddress .increasingIndex e).logicalByte (e.toInt - k), rfl, rfl, rfl,
    atAddress_ea _ e, rfl, fun _ => rfl⟩

/-- Each bound of the statement at the first and last address it admits and at the nearest it does not. -/
theorem witness_LoadsTowardIncreasingIndex_bounds :
    let ok (n : Int) (e : Word) : Bool := n ≤ e.toInt ∧ e.toInt ≤ 2 ^ 20
    (ok 1 1 ∧ ok 2 2 ∧ ok 4 4 ∧ ok 1 0x100000 ∧ ok 2 0x100000 ∧ ok 4 0x100000) ∧
    (¬ok 1 0 ∧ ¬ok 2 1 ∧ ¬ok 4 3 ∧ ¬ok 1 0x100001 ∧ ¬ok 2 0x100001 ∧ ¬ok 4 0x100001 ∧ ¬ok 1 0x80000000) := by decide

theorem witness_LoadsTowardDecreasingIndex (e : Word) :
    ∃ (s : State) (ea : Word) (cap : Int) (byte : Int → Byte), ea = e ∧ cap = 2 ^ 20 ∧
      s.params.readDirection = .decreasingIndex ∧ ea = s.readReg 2 + (0#12).signExtend 32 ∧ cap = s.params.capacity ∧
      ∀ k, byte k = s.logicalByte (ea.toInt + k) :=
  ⟨atAddress .decreasingIndex e, e, 2 ^ 20, fun k => (atAddress .decreasingIndex e).logicalByte (e.toInt + k), rfl, rfl, rfl,
    atAddress_ea _ e, rfl, fun _ => rfl⟩

/-- The bounds of the loads toward decreasing index, and of the stores: bytes `ea` to `ea + n − 1`. -/
theorem witness_LoadsTowardDecreasingIndex_StoresWriteTheirBytesOnly_bounds :
    let ok (n : Int) (e : Word) : Bool := 1 ≤ e.toInt ∧ e.toInt ≤ 2 ^ 20 - (n - 1)
    (ok 1 1 ∧ ok 2 1 ∧ ok 4 1 ∧ ok 1 0x100000 ∧ ok 2 0xFFFFF ∧ ok 4 0xFFFFD) ∧
    (¬ok 1 0 ∧ ¬ok 2 0 ∧ ¬ok 4 0 ∧ ¬ok 1 0x100001 ∧ ¬ok 2 0x100000 ∧ ¬ok 4 0xFFFFE ∧ ¬ok 4 0x80000000) := by decide

theorem witness_StoresWriteTheirBytesOnly_words :
    ∀ f ∈ [0#3, 1#3, 2#3], (sbWord 0b0100011 f).extractLsb' 0 7 = 0b0100011#7 ∧
      (sbWord 0b0100011 f).extractLsb' 12 3 = f := by decide

/-- At every address. -/
theorem witness_StoresWriteTheirBytesOnly :
    ∀ e : Word, (atAddress .increasingIndex e).Inv ∧
      e = (atAddress .increasingIndex e).readReg 2 + (0#12).signExtend 32 ∧
      (2 ^ 20 : Int) = (atAddress .increasingIndex e).params.capacity :=
  fun e => ⟨⟨⟨List.Pairwise.nil, nofun⟩, nofun, Nat.zero_le _⟩, atAddress_ea _ e, rfl⟩

/-- A word stored at the last address that admits it, then read at its last byte's address. -/
theorem witness_StoredWordLoadsBackReversed :
    (atAddress .increasingIndex 0xFFFFD).Inv ∧
    (atAddress .increasingIndex 0xFFFFD).params.readDirection = .increasingIndex ∧
    (0xFFFFD : Word) = (atAddress .increasingIndex 0xFFFFD).readReg 2 + (0#12).signExtend 32 ∧
    1 ≤ (0xFFFFD : Word).toInt ∧ (0xFFFFD : Word).toInt + 3 ≤ (atAddress .increasingIndex 0xFFFFD).params.capacity ∧
    (0xFFFFD : Word).toInt + 3 < 2 ^ 31 ∧
    ∃ t, exec (.sw 5 2 0) (atAddress .increasingIndex 0xFFFFD) = .next t ∧
      t.readReg 2 + (3#12).signExtend 32 = 0xFFFFD + 3 :=
  ⟨by decide, by decide, by decide, by decide, by decide, by decide, _, rfl, by decide⟩

/-- The byte and half clauses at the last address that admits them. -/
theorem witness_StoredWordLoadsBackReversed_narrow :
    (∃ t, exec (.sb 5 2 0) (atAddress .increasingIndex 0x100000) = .next t ∧
      t.readReg 2 + (0#12).signExtend 32 = 0x100000 + 0) ∧
    (∃ t, exec (.sh 5 2 0) (atAddress .increasingIndex 0xFFFFF) = .next t ∧
      t.readReg 2 + (1#12).signExtend 32 = 0xFFFFF + 1) :=
  ⟨⟨_, rfl, by decide⟩, ⟨_, rfl, by decide⟩⟩

theorem witness_RoundTripTowardDecreasingIndex :
    (atAddress .decreasingIndex 0xFFFFD).Inv ∧
    (atAddress .decreasingIndex 0xFFFFD).params.readDirection = .decreasingIndex ∧
    (0xFFFFD : Word) = (atAddress .decreasingIndex 0xFFFFD).readReg 2 + (0#12).signExtend 32 ∧
    1 ≤ (0xFFFFD : Word).toInt ∧ (0xFFFFD : Word).toInt + 3 ≤ (atAddress .decreasingIndex 0xFFFFD).params.capacity ∧
    ∃ t, exec (.sw 5 2 0) (atAddress .decreasingIndex 0xFFFFD) = .next t ∧
      t.readReg 2 + (0#12).signExtend 32 = 0xFFFFD + 0 :=
  ⟨by decide, by decide, by decide, by decide, by decide, _, rfl, by decide⟩

theorem witness_RoundTripTowardDecreasingIndex_narrow :
    (∃ t, exec (.sb 5 2 0) (atAddress .decreasingIndex 0x100000) = .next t ∧
      t.readReg 2 + (0#12).signExtend 32 = 0x100000 + 0) ∧
    (∃ t, exec (.sh 5 2 0) (atAddress .decreasingIndex 0xFFFFF) = .next t ∧
      t.readReg 2 + (0#12).signExtend 32 = 0xFFFFF + 0) :=
  ⟨⟨_, rfl, by decide⟩, ⟨_, rfl, by decide⟩⟩

/-- One step that stores `D4` at index `CAPACITY − 0x1000`, which the byte beside it does not touch. -/
theorem witness_StoreHoldsTheLatestStoredByte :
    let s := (stateWith 0 [(2, 0x1000), (5, 0xA1B2C3D4)]).withFetchWord 32 0x00510023
    s.Inv ∧ (∃ t, Sys2Proof.core.run 1 s = .next t) ∧ latestStore 1 s 0xFF000 = some 0xD4 ∧
      latestStore 1 s 0xFEFFF = none :=
  ⟨by decide, ⟨_, rfl⟩, by decide, by decide⟩

theorem witness_ConditionalBranchResults_words :
    ∀ f ∈ [0#3, 1#3, 4#3, 5#3, 6#3, 7#3], (sbWord 0b1100011 f).extractLsb' 0 7 = 0b1100011#7 ∧
      (sbWord 0b1100011 f).extractLsb' 12 3 = f := by decide

/-- Equal operands, and −1 against 1: between them each of the six conditions holds once and fails once. -/
theorem witness_ConditionalBranchResults :
    let s := stateWith 8 [(1, 3), (2, 3)]
    let t := stateWith 8 [(1, 0xFFFFFFFF), (2, 1)]
    let u := stateWith 8 [(1, 1), (2, 0xFFFFFFFF)]
    (s.readReg 1 = s.readReg 2 ∧ t.readReg 1 ≠ t.readReg 2) ∧
    ((t.readReg 1).toInt < (t.readReg 2).toInt ∧ (s.readReg 1).toInt ≥ (s.readReg 2).toInt) ∧
    ((u.readReg 1).toNat < (u.readReg 2).toNat ∧ (t.readReg 1).toNat ≥ (t.readReg 2).toNat) := by decide

theorem witness_LuiResult_AuipcResult_JumpAndLinkResults :
    (0x123452B7 : Word).extractLsb' 0 7 = 0b0110111#7 ∧ (0xFFFFF297 : Word).extractLsb' 0 7 = 0b0010111#7 ∧
    (0xFF9FF0EF : Word).extractLsb' 0 7 = 0b1101111#7 ∧
    ((0x008282E7 : Word).extractLsb' 0 7 = 0b1100111#7 ∧ (0x008282E7 : Word).extractLsb' 12 3 = 0b000#3) := by decide

theorem witness_EcallOutcomes :
    ((stateWith 0 [(10, 10)]).readReg 10).toNat = 10 ∧ ((stateWith 0 [(10, 17)]).readReg 10).toNat = 17 ∧
    (((stateWith 0 [(10, 11)]).readReg 10).toNat ≠ 10 ∧ ((stateWith 0 [(10, 11)]).readReg 10).toNat ≠ 17) := by decide

/-- Two states that differ in `x7` alone, under ADD and under ECALL with selector 17. -/
theorem witness_RegistersReadAndWritten :
    let s := stateWith 0 [(1, 5), (2, 7), (10, 17), (11, 42)]
    let s' := stateWith 0 [(1, 5), (2, 7), (10, 17), (11, 42), (7, 9)]
    s ≠ s' ∧ s.status = .running ∧ s'.status = .running ∧ s.pc = s'.pc ∧ s.imem = s'.imem ∧ s.store = s'.store ∧
    s.params = s'.params ∧ (∀ r ∈ sourceRegs (.add 3 1 2) s, s.readReg r = s'.readReg r) ∧
    (∀ r ∈ sourceRegs .ecall s, s.readReg r = s'.readReg r) ∧ sourceRegs .ecall s = [10, 11] ∧
    destReg (.add 3 1 2) ≠ some 7 ∧ (∃ t, exec (.add 3 1 2) s = .next t ∧ t.status = .running) ∧
    (∃ t, exec (.add 3 1 2) s' = .next t) ∧ (∃ t, exec .ecall s = .next t) ∧ (∃ t, exec .ecall s' = .next t) :=
  ⟨by decide, by decide, by decide, by decide, by decide, by decide, by decide, by decide, by decide, by decide, by decide,
    ⟨_, rfl, by decide⟩, ⟨_, rfl⟩, ⟨_, rfl⟩, ⟨_, rfl⟩⟩

theorem witness_OnlyStoresChangeTheStore :
    (atAddress .increasingIndex 1).Inv ∧ (∃ t, exec (.sw 5 2 0) (atAddress .increasingIndex 1) = .next t) ∧
    storedIndices (.sw 5 2 0) (atAddress .increasingIndex 1) = [0xFFFFF, 0xFFFFE, 0xFFFFD, 0xFFFFC] ∧
    storedIndices (.lw 5 2 0) (atAddress .increasingIndex 1) = [] :=
  ⟨by decide, ⟨_, rfl⟩, by decide, by decide⟩

theorem witness_PcMovesToTheSuccessor :
    (stateWith 0xFFFFFFFC []).status = .running ∧
    (∃ t, exec (.add 3 1 2) (stateWith 0xFFFFFFFC []) = .next t ∧ t.status = .running) ∧
    redirects (.add 3 1 2) = false :=
  ⟨by decide, ⟨_, rfl, by decide⟩, rfl⟩

/-- Of each clause an instruction, and for the accesses one that completes and one that ends the run. -/
theorem witness_OnlyAccessesAndEcallEndTheRun :
    (∃ t, exec (.add 3 1 2) (atAddress .increasingIndex 1) = .next t ∧ loadAccess (.add 3 1 2) = none ∧
      storeAccess (.add 3 1 2) = none ∧ Instr.add 3 1 2 ≠ .ecall) ∧
    (∃ t, exec .ecall (stateWith 0 [(10, 17), (11, 42)]) = .next t ∧ t.status = .halted 42) ∧
    (loadAccess (.lb 6 2 0) = some (1, 2, 0) ∧
      (∃ t, exec (.lb 6 2 0) (atAddress .increasingIndex 1) = .next t ∧ t.status = .running) ∧
      (∃ t, exec (.lb 6 2 0) (atAddress .increasingIndex 0) = .next t ∧ t.status = .addressingFault .load 0)) ∧
    (storeAccess (.sb 5 2 0) = some (1, 5, 2, 0) ∧
      (∃ t, exec (.sb 5 2 0) (atAddress .increasingIndex 1) = .next t ∧ t.status = .running) ∧
      (∃ t, exec (.sb 5 2 0) (atAddress .increasingIndex 0) = .next t ∧ t.status = .addressingFault .store 0)) :=
  ⟨⟨_, rfl, rfl, rfl, by decide⟩, ⟨_, rfl, by decide⟩, ⟨rfl, ⟨_, rfl, by decide⟩, ⟨_, rfl, by decide⟩⟩,
    ⟨rfl, ⟨_, rfl, by decide⟩, ⟨_, rfl, by decide⟩⟩⟩

theorem witness_StepRunsTheDecodedInstruction :
    ((stateWith 8 []).withFetchWord 32 0x002081B3).status = .running ∧
    FetchesInstr ((stateWith 8 []).withFetchWord 32 0x002081B3) (.add 3 1 2) :=
  ⟨by decide, 0x002081B3, ⟨by decide, by decide⟩, by decide⟩

theorem witness_TerminalOutcomesAreSticky :
    (State.reset.terminate (.halted 42)).status ≠ .running ∧ State.reset.status = .running := by decide

/-- A step that ends the run, with a register and a store byte to keep. -/
theorem witness_TerminationIsPrecise :
    ∃ t, step ((loaded .increasingIndex).withFetchWord 32 0x00002003) = .next t ∧ t.status ≠ .running :=
  ⟨_, rfl, by decide⟩

/-- For each outcome a running state whose step records it. -/
theorem witness_OutcomesHaveTheirCause :
    (∃ t, step State.reset = .next t ∧ t.status = .endOfProgram) ∧
    (∃ t, step (stateWith 4 []) = .next t ∧ t.status = .addressingFault .fetch 4) ∧
    (∃ t, step (stateWith 2 []) = .next t ∧ t.status = .addressingFault .fetch 2) ∧
    (∃ t, step ((stateWith 8 []).withFetchWord 32 0) = .next t ∧ t.status = .decodeFault 0) ∧
    (∃ t, step ((stateWith 8 []).withFetchWord 32 0x00010303) = .next t ∧ t.status = .addressingFault .load 0) ∧
    (∃ t, step ((stateWith 8 []).withFetchWord 32 0x00510023) = .next t ∧ t.status = .addressingFault .store 0) ∧
    (∃ t, step ((stateWith 8 [(10, 10)]).withFetchWord 32 0x73) = .next t ∧ t.status = .halted 0) ∧
    (∃ t, step ((stateWith 8 [(10, 17), (11, 42)]).withFetchWord 32 0x73) = .next t ∧ t.status = .halted 42) ∧
    (∃ t, step ((stateWith 8 [(10, 1)]).withFetchWord 32 0x73) = .next t ∧ t.status = .unsupportedSyscall 1) :=
  ⟨⟨_, rfl, by decide⟩, ⟨_, rfl, by decide⟩, ⟨_, rfl, by decide⟩, ⟨_, rfl, by decide⟩, ⟨_, rfl, by decide⟩,
    ⟨_, rfl, by decide⟩, ⟨_, rfl, by decide⟩, ⟨_, rfl, by decide⟩, ⟨_, rfl, by decide⟩⟩

theorem witness_UnlistedWordEndsTheRun :
    ((stateWith 8 []).withFetchWord 32 0x00100073).status = .running ∧
    FetchesWord ((stateWith 8 []).withFetchWord 32 0x00100073) 0x00100073 ∧ ¬InOpcodeTable 0x00100073 ∧
    (0x0FF0000F : Word).extractLsb' 0 7 = 0b0001111#7 ∧ (0x1000202F : Word).extractLsb' 0 7 = 0b0101111#7 :=
  ⟨by decide, ⟨by decide, by decide⟩, by unfold InOpcodeTable; decide, by decide, by decide⟩

theorem witness_SelfJumpNeverEnds :
    ((stateWith 8 []).withFetchWord 32 0x6F).status = .running ∧
    FetchesWord ((stateWith 8 []).withFetchWord 32 0x6F) 0x0000006F :=
  ⟨by decide, ⟨by decide, by decide⟩⟩

theorem witness_PlacedWordRunsNext : decodeTableWord 32 0x002081B3 = some (.add 3 1 2) := by decide

theorem witness_StepKeepsTheInvariant_RunsKeepImageAndBuild :
    ((loaded .increasingIndex).withFetchWord 32 0x00512023).Inv ∧
    (∃ t, step ((loaded .increasingIndex).withFetchWord 32 0x00512023) = .next t ∧ t.status = .running) ∧
    (∃ t, Sys2Proof.core.run 2 ((loaded .increasingIndex).withFetchWord 32 0x00512023) = .next t) :=
  ⟨by decide, ⟨_, rfl, by decide⟩, ⟨_, rfl⟩⟩

theorem witness_RegisterDumpLayout :
    State.reset.status = .running ∧ (State.reset.terminate .endOfProgram).status ≠ .running := by decide

/-- A run of one step, SW, whose instruction does not write `x5`. -/
theorem witness_RegistersKeepTheirLastWrite :
    let s := (stateWith 0 [(2, 1), (5, 0x11223344)]).withFetchWord 32 0x00512023
    (5 : RegIdx) ≠ 0 ∧ (31 : RegIdx) ≠ 0 ∧ (∃ t, Sys2Proof.core.run 1 s = .next t) ∧ FetchesInstr s (.sw 5 2 0) ∧
      destReg (.sw 5 2 0) ≠ some 5 :=
  ⟨by decide, by decide, ⟨_, rfl⟩, ⟨0x00512023, ⟨by decide, by decide⟩, by decide⟩, by decide⟩

/-- The widths at both ends and one that the loads use. -/
theorem witness_ExtensionsOfTheLowBits : ∀ n ∈ [1, 8, 32], 1 ≤ n ∧ n ≤ 32 := by decide

/-- The run from reset has ended after its first step. -/
theorem witness_NothingHappensAfterTheEnd :
    ∃ u, Sys2Proof.core.run 1 State.reset = .next u ∧ u.status ≠ .running ∧
      Sys2Proof.core.run (1 + 0) State.reset = .next u :=
  ⟨_, rfl, by decide, rfl⟩

end Sys2Proof.Tests
end

section
/-! PROOFS. The extensions `sext_N` and `zext_N` of R12: signed value and bits. -/

namespace Sys2Proof.Machine

/-- The sign bit that `sext_N` extends is bit `N − 1` of the word. -/
theorem msb_lowBits {n : Nat} (v : Word) (hpos : 0 < n) : (v.setWidth n).msb = v.getLsbD (n - 1) := by
  rw [BitVec.msb_setWidth, decide_eq_true hpos, Bool.true_and]

/-- A sign-extended operand repeats its last bit from there on up. -/
theorem getLsbD_signExtend_word {n k : Nat} (x : BitVec n) (hk : k < 32) :
    (x.signExtend 32).getLsbD k = x.getLsbD (min k (n - 1)) := by
  rw [BitVec.getLsbD_signExtend, decide_eq_true hk, Bool.true_and]
  split
  case isTrue hkn =>
    rw [Nat.min_eq_left (Nat.le_sub_one_of_lt hkn)]
  case isFalse hkn =>
    have hlast : n - 1 ≤ k := by omega
    rw [Nat.min_eq_right hlast, BitVec.msb_eq_getLsbD_last]

theorem toInt_sext {n : Nat} (v : Word) (hpos : 0 < n) (hle : n ≤ 32) :
    (sext n v).toInt = (v.toNat % 2 ^ n : Nat) - (if v.getLsbD (n - 1) then 2 ^ n else 0 : Int) := by
  have hext : (sext n v).toInt = (v.setWidth n).toInt := BitVec.toInt_signExtend_of_le hle
  rw [hext, BitVec.toInt_eq_msb_cond, msb_lowBits v hpos, BitVec.toNat_setWidth]
  split <;> simp

theorem getLsbD_sext {n k : Nat} (v : Word) (hpos : 0 < n) (hk : k < 32) :
    (sext n v).getLsbD k = v.getLsbD (min k (n - 1)) := by
  have hlow : min k (n - 1) < n := by omega
  rw [sext, getLsbD_signExtend_word _ hk, BitVec.getLsbD_setWidth, decide_eq_true hlow, Bool.true_and]

theorem getLsbD_zext {n k : Nat} (v : Word) (hk : k < 32) :
    (zext n v).getLsbD k = (decide (k < n) && v.getLsbD k) := by
  rw [zext, BitVec.getLsbD_setWidth, decide_eq_true hk, Bool.true_and, BitVec.getLsbD_setWidth]

/-- Settles O44: the signed value, the copied sign bits and the zeros above, one lemma each. -/
theorem extensionsOfTheLowBits : Obligations.ExtensionsOfTheLowBits := by
  intro n v hpos hle
  exact ⟨toInt_sext v hpos hle, fun _ hk => getLsbD_sext v hpos hk, fun _ hk => getLsbD_zext v hk⟩

end Sys2Proof.Machine
end

section
/-! PROOFS. Registers (R22, R23): no instruction writes a register but its `rd`, none depends on a register its row of
the table does not list, and over a run a register keeps its last write. -/

namespace Sys2Proof.Machine

/-! ## What an instruction writes -/

/-- Of the four shapes of a next state only the register write changes a register, and it changes `rd`. -/
theorem Effect.readReg_of_not_destReg {i : Instr} {s t : State} {r : RegIdx} (he : Effect i s t)
    (hr : destReg i ≠ some r) : t.readReg r = s.readReg r := by
  cases he with
  | write rd v target hrd _ =>
    have hne : r ≠ rd := fun e => hr (e ▸ hrd)
    simp [State.readReg_writeReg, hne]
  | goTo target _ => exact s.readReg_setPc target r
  | ended o _ => exact s.readReg_terminate o r
  | stored n rs2 rs1 imm _ _ => exact State.readReg_congr rfl r

theorem exec_readReg_of_not_destReg {i : Instr} {s t : State} {r : RegIdx} (h : exec i s = .next t)
    (hr : destReg i ≠ some r) : t.readReg r = s.readReg r := by
  obtain ⟨u, hu, he⟩ := exec_effect i s
  obtain rfl : u = t := Host.Outcome.next.inj (hu.symm.trans h)
  exact he.readReg_of_not_destReg hr

/-! ## The families of the table of R23

Each instruction runs the shared operation of its family, on the registers its row of the table lists. -/

/-- The rows of the table of R23, each with the shared operation its instructions run. -/
inductive ExecForm (i : Instr) : Prop where
  | regReg (rd rs1 rs2 : RegIdx) (f : Word → Word → Word) (hrd : destReg i = some rd)
      (hsrc : ∀ s, sourceRegs i s = [rs1, rs2]) (hexec : ∀ s, exec i s = .next (s.regReg rd rs1 rs2 f))
  | regImm (rd rs1 : RegIdx) (f : Word → Word) (hrd : destReg i = some rd)
      (hsrc : ∀ s, sourceRegs i s = [rs1]) (hexec : ∀ s, exec i s = .next (s.regImm rd rs1 f))
  | load (n : Nat) (extend : Word → Word) (rd rs1 : RegIdx) (imm : BitVec 12) (hrd : destReg i = some rd)
      (hsrc : ∀ s, sourceRegs i s = [rs1]) (hexec : ∀ s, exec i s = .next (s.loadAt n extend rd rs1 imm))
  | store (n : Nat) (rs2 rs1 : RegIdx) (imm : BitVec 12) (hrd : destReg i = none)
      (hsrc : ∀ s, sourceRegs i s = [rs1, rs2]) (hexec : ∀ s, exec i s = .next (s.storeAt n rs2 rs1 imm))
  | branch (cond : Word → Word → Bool) (rs1 rs2 : RegIdx) (offset : BitVec 13) (hrd : destReg i = none)
      (hsrc : ∀ s, sourceRegs i s = [rs1, rs2]) (hexec : ∀ s, exec i s = .next (s.branchIf cond rs1 rs2 offset))
  | upper (rd : RegIdx) (f : Word → Word) (hrd : destReg i = some rd)
      (hexec : ∀ s, exec i s = .next (s.writeAndAdvance rd (f s.pc)))
  | jal (rd : RegIdx) (offset : BitVec 21) (hrd : destReg i = some rd)
      (hexec : ∀ s, exec i s = .next (s.linkTo rd (s.jumpTarget offset)))
  | jalr (rd rs1 : RegIdx) (imm : BitVec 12) (hrd : destReg i = some rd)
      (hsrc : ∀ s, sourceRegs i s = [rs1]) (hexec : ∀ s, exec i s = .next (s.linkTo rd (s.jumpRegTarget rs1 imm)))
  | ecall (hi : i = .ecall)

theorem execForm (i : Instr) : ExecForm i := by
  cases i with
  | add rd rs1 rs2 | sub rd rs1 rs2 | sll rd rs1 rs2 | slt rd rs1 rs2 | sltu rd rs1 rs2 | xor rd rs1 rs2
  | srl rd rs1 rs2 | sra rd rs1 rs2 | or rd rs1 rs2 | and rd rs1 rs2 | mul rd rs1 rs2 | mulh rd rs1 rs2
  | mulhsu rd rs1 rs2 | mulhu rd rs1 rs2 | div rd rs1 rs2 | divu rd rs1 rs2 | rem rd rs1 rs2 | remu rd rs1 rs2 =>
    exact .regReg rd rs1 rs2 _ rfl (fun _ => rfl) (fun _ => rfl)
  | addi rd rs1 imm | slti rd rs1 imm | sltiu rd rs1 imm | xori rd rs1 imm | ori rd rs1 imm | andi rd rs1 imm
  | slli rd rs1 imm | srli rd rs1 imm | srai rd rs1 imm =>
    exact .regImm rd rs1 _ rfl (fun _ => rfl) (fun _ => rfl)
  | lb rd rs1 imm | lh rd rs1 imm | lw rd rs1 imm | lbu rd rs1 imm | lhu rd rs1 imm =>
    exact .load _ _ rd rs1 imm rfl (fun _ => rfl) (fun _ => rfl)
  | sb rs2 rs1 imm | sh rs2 rs1 imm | sw rs2 rs1 imm =>
    exact .store _ rs2 rs1 imm rfl (fun _ => rfl) (fun _ => rfl)
  | beq rs1 rs2 offset | bne rs1 rs2 offset | blt rs1 rs2 offset | bge rs1 rs2 offset | bltu rs1 rs2 offset
  | bgeu rs1 rs2 offset => exact .branch _ rs1 rs2 offset rfl (fun _ => rfl) (fun _ => rfl)
  | lui rd imm20 => exact .upper rd (fun _ => upperWord imm20) rfl (fun _ => rfl)
  | auipc rd imm20 => exact .upper rd (fun pc => pc + upperWord imm20) rfl (fun _ => rfl)
  | jal rd offset => exact .jal rd offset rfl (fun _ => rfl)
  | jalr rd rs1 imm => exact .jalr rd rs1 imm rfl (fun _ => rfl) (fun _ => rfl)
  | ecall => exact .ecall rfl

/-! ## What an instruction reads -/

/-- A store by its bounds check, over all the state it reads. -/
theorem State.storeAt_eq_ite (s : State) (n : Nat) (rs2 rs1 : RegIdx) (imm : BitVec 12) :
    s.storeAt n rs2 rs1 imm =
      if indicesOk s.params (writeIndices s.params (s.effectiveAddress rs1 imm) n) = true then { s with
        store := s.store.writeBytes (writeIndices s.params (s.effectiveAddress rs1 imm) n) 0 (s.readReg rs2)
        pc := s.pc + 4 }
      else s.terminate (.addressingFault .store (s.effectiveAddress rs1 imm)) := by
  rcases s.storeAt_cases n rs2 rs1 imm with ⟨hok, h⟩ | ⟨hbad, h⟩
  · rw [h, if_pos hok]
  · rw [h, if_neg (Bool.eq_false_iff.1 hbad)]

/-- Two states that agree on everything but the registers. -/
structure SameButRegisters (s s' : State) : Prop where
  pc : s.pc = s'.pc
  status : s.status = s'.status
  imem : s.imem = s'.imem
  store : s.store = s'.store
  params : s.params = s'.params

/-- Two next states that agree on everything but the registers and, where the run goes on, on the written one. -/
structure SameResult (dest : Option RegIdx) (t t' : State) : Prop where
  rest : SameButRegisters t t'
  written : t.status = .running → ∀ r, dest = some r → t.readReg r = t'.readReg r

/-- A written register reads the same whatever the file held before, `x0` included (R21). -/
theorem State.readReg_writeReg_same (s s' : State) (rd : RegIdx) (v : Word) :
    (s.writeReg rd v).readReg rd = (s'.writeReg rd v).readReg rd := by
  by_cases h : rd = 0#5
  · simp [h]
  · simp [State.readReg_writeReg, h]

namespace SameButRegisters

variable {s s' : State} (h : SameButRegisters s s')
include h

theorem setPc (target : Word) : SameButRegisters (s.setPc target) (s'.setPc target) :=
  ⟨rfl, h.status, h.imem, h.store, h.params⟩

theorem writeReg (rd : RegIdx) (v : Word) : SameButRegisters (s.writeReg rd v) (s'.writeReg rd v) :=
  ⟨by simp [h.pc], by simp [h.status], by simp [h.imem], by simp [h.store], by simp [h.params]⟩

theorem terminate (o : RunStatus) : SameButRegisters (s.terminate o) (s'.terminate o) :=
  ⟨h.pc, rfl, h.imem, h.store, h.params⟩

theorem nextPc_eq : s.nextPc = s'.nextPc := by
  rw [State.nextPc, State.nextPc, h.pc]

theorem memRead_eq (ea : Word) (n : Nat) : s.memRead ea n = s'.memRead ea n := by
  simp [State.memRead, h.params, h.store]

/-! One lemma per shared operation: the same operands give the same result. -/

theorem result_goTo (target : Word) : SameResult none (s.setPc target) (s'.setPc target) :=
  ⟨h.setPc target, by simp⟩

theorem result_write (rd : RegIdx) (v target : Word) :
    SameResult (some rd) ((s.writeReg rd v).setPc target) ((s'.writeReg rd v).setPc target) := by
  refine ⟨(h.writeReg rd v).setPc target, ?_⟩
  rintro - r ⟨⟩
  simpa using s.readReg_writeReg_same s' rd v

/-- An ended run says nothing of the register that was to be written. -/
theorem result_ended (dest : Option RegIdx) {o : RunStatus} (ho : o ≠ .running) :
    SameResult dest (s.terminate o) (s'.terminate o) :=
  ⟨h.terminate o, fun hrun => absurd hrun ho⟩

theorem result_writeAndAdvance (rd : RegIdx) (v : Word) :
    SameResult (some rd) (s.writeAndAdvance rd v) (s'.writeAndAdvance rd v) := by
  rw [State.writeAndAdvance, State.writeAndAdvance, h.nextPc_eq]
  exact h.result_write rd v _

theorem result_regReg (rd : RegIdx) (f : Word → Word → Word) {rs1 rs2 : RegIdx}
    (h1 : s.readReg rs1 = s'.readReg rs1) (h2 : s.readReg rs2 = s'.readReg rs2) :
    SameResult (some rd) (s.regReg rd rs1 rs2 f) (s'.regReg rd rs1 rs2 f) := by
  rw [State.regReg, State.regReg, h1, h2]
  exact h.result_writeAndAdvance rd _

theorem result_regImm (rd : RegIdx) (f : Word → Word) {rs1 : RegIdx} (h1 : s.readReg rs1 = s'.readReg rs1) :
    SameResult (some rd) (s.regImm rd rs1 f) (s'.regImm rd rs1 f) := by
  rw [State.regImm, State.regImm, h1]
  exact h.result_writeAndAdvance rd _

theorem result_upper (rd : RegIdx) (f : Word → Word) :
    SameResult (some rd) (s.writeAndAdvance rd (f s.pc)) (s'.writeAndAdvance rd (f s'.pc)) := by
  rw [h.pc]
  exact h.result_writeAndAdvance rd _

theorem result_linkTo (rd : RegIdx) (target : Word) :
    SameResult (some rd) (s.linkTo rd target) (s'.linkTo rd target) := by
  rw [State.linkTo, State.linkTo, h.nextPc_eq]
  exact h.result_write rd _ target

theorem result_jal (rd : RegIdx) (offset : BitVec 21) :
    SameResult (some rd) (s.linkTo rd (s.jumpTarget offset)) (s'.linkTo rd (s'.jumpTarget offset)) := by
  rw [State.jumpTarget, State.jumpTarget, h.pc]
  exact h.result_linkTo rd _

theorem result_jalr (rd : RegIdx) {rs1 : RegIdx} (imm : BitVec 12) (h1 : s.readReg rs1 = s'.readReg rs1) :
    SameResult (some rd) (s.linkTo rd (s.jumpRegTarget rs1 imm)) (s'.linkTo rd (s'.jumpRegTarget rs1 imm)) := by
  rw [State.jumpRegTarget, State.jumpRegTarget, h1]
  exact h.result_linkTo rd _

theorem result_loadAt (n : Nat) (extend : Word → Word) (rd : RegIdx) {rs1 : RegIdx} (imm : BitVec 12)
    (h1 : s.readReg rs1 = s'.readReg rs1) :
    SameResult (some rd) (s.loadAt n extend rd rs1 imm) (s'.loadAt n extend rd rs1 imm) := by
  have hea : s.effectiveAddress rs1 imm = s'.effectiveAddress rs1 imm := by
    rw [State.effectiveAddress, State.effectiveAddress, h1]
  rw [State.loadAt, State.loadAt, hea, h.memRead_eq]
  cases s'.memRead (s'.effectiveAddress rs1 imm) n with
  | some v => exact h.result_writeAndAdvance rd (extend v)
  | none => exact h.result_ended _ (by simp)

theorem result_storeAt (n : Nat) {rs2 rs1 : RegIdx} (imm : BitVec 12) (h1 : s.readReg rs1 = s'.readReg rs1)
    (h2 : s.readReg rs2 = s'.readReg rs2) :
    SameResult none (s.storeAt n rs2 rs1 imm) (s'.storeAt n rs2 rs1 imm) := by
  have hea : s.effectiveAddress rs1 imm = s'.effectiveAddress rs1 imm := by
    rw [State.effectiveAddress, State.effectiveAddress, h1]
  rw [State.storeAt_eq_ite, State.storeAt_eq_ite, hea, h2, h.params, h.store, h.pc]
  split
  · exact ⟨⟨rfl, h.status, h.imem, rfl, rfl⟩, by simp⟩
  · exact h.result_ended none (by simp)

theorem result_branchIf (cond : Word → Word → Bool) {rs1 rs2 : RegIdx} (offset : BitVec 13)
    (h1 : s.readReg rs1 = s'.readReg rs1) (h2 : s.readReg rs2 = s'.readReg rs2) :
    SameResult none (s.branchIf cond rs1 rs2 offset) (s'.branchIf cond rs1 rs2 offset) := by
  have htarget : s.branchTarget offset = s'.branchTarget offset := by
    rw [State.branchTarget, State.branchTarget, h.pc]
  rw [State.branchIf, State.branchIf, h1, h2, htarget, h.nextPc_eq]
  exact h.result_goTo _

end SameButRegisters

/-- ECALL's outcome depends on the code register under selector 17 alone (R260). -/
theorem syscallOutcome_congr {selector code code' : Word} (h : selector = Config.sysExitCode → code = code') :
    syscallOutcome selector code = syscallOutcome selector code' := by
  by_cases hsel : selector = Config.sysExitCode
  · rw [h hsel]
  · simp [syscallOutcome, hsel]

theorem sysSelectorReg_mem_sourceRegs (s : State) : Config.sysSelectorReg ∈ sourceRegs .ecall s := by
  rw [sourceRegs]
  split <;> simp [Config.sysSelectorReg]

theorem sysCodeReg_mem_sourceRegs {s : State} (h : s.readReg Config.sysSelectorReg = Config.sysExitCode) :
    Config.sysCodeReg ∈ sourceRegs .ecall s := by
  have h17 : s.readReg 10#5 = 17#32 := h
  simp [sourceRegs, h17, Config.sysCodeReg]

theorem SameButRegisters.result_ecall {s s' : State} (h : SameButRegisters s s')
    (hr : ∀ r ∈ sourceRegs .ecall s, s.readReg r = s'.readReg r) :
    SameResult none
      (s.terminate (syscallOutcome (s.readReg Config.sysSelectorReg) (s.readReg Config.sysCodeReg)))
      (s'.terminate (syscallOutcome (s'.readReg Config.sysSelectorReg) (s'.readReg Config.sysCodeReg))) := by
  have hsel := hr _ (sysSelectorReg_mem_sourceRegs s)
  have hcode := syscallOutcome_congr fun h17 => hr _ (sysCodeReg_mem_sourceRegs h17)
  rw [hcode, hsel]
  exact h.result_ended none (syscallOutcome_ne_running _ _)

/-- Noninterference: states that agree on all but the registers, and on the registers an instruction reads, have the
same result of it. -/
theorem exec_sameResult {i : Instr} {s s' : State} (h : SameButRegisters s s')
    (hr : ∀ r ∈ sourceRegs i s, s.readReg r = s'.readReg r) :
    ∃ t t', exec i s = .next t ∧ exec i s' = .next t' ∧ SameResult (destReg i) t t' := by
  cases execForm i with
  | regReg rd rs1 rs2 f hrd hsrc hexec =>
    rw [hsrc, List.forall_mem_cons, List.forall_mem_singleton] at hr
    obtain ⟨h1, h2⟩ := hr
    exact ⟨_, _, hexec s, hexec s', hrd ▸ h.result_regReg rd f h1 h2⟩
  | regImm rd rs1 f hrd hsrc hexec =>
    rw [hsrc, List.forall_mem_singleton] at hr
    exact ⟨_, _, hexec s, hexec s', hrd ▸ h.result_regImm rd f hr⟩
  | load n extend rd rs1 imm hrd hsrc hexec =>
    rw [hsrc, List.forall_mem_singleton] at hr
    exact ⟨_, _, hexec s, hexec s', hrd ▸ h.result_loadAt n extend rd imm hr⟩
  | store n rs2 rs1 imm hrd hsrc hexec =>
    rw [hsrc, List.forall_mem_cons, List.forall_mem_singleton] at hr
    obtain ⟨h1, h2⟩ := hr
    exact ⟨_, _, hexec s, hexec s', hrd ▸ h.result_storeAt n imm h1 h2⟩
  | branch cond rs1 rs2 offset hrd hsrc hexec =>
    rw [hsrc, List.forall_mem_cons, List.forall_mem_singleton] at hr
    obtain ⟨h1, h2⟩ := hr
    exact ⟨_, _, hexec s, hexec s', hrd ▸ h.result_branchIf cond offset h1 h2⟩
  | upper rd f hrd hexec => exact ⟨_, _, hexec s, hexec s', hrd ▸ h.result_upper rd f⟩
  | jal rd offset hrd hexec => exact ⟨_, _, hexec s, hexec s', hrd ▸ h.result_jal rd offset⟩
  | jalr rd rs1 imm hrd hsrc hexec =>
    rw [hsrc, List.forall_mem_singleton] at hr
    exact ⟨_, _, hexec s, hexec s', hrd ▸ h.result_jalr rd imm hr⟩
  | ecall hi =>
    subst hi
    exact ⟨_, _, rfl, rfl, h.result_ecall hr⟩

/-- Settles O25: the frame from the effects of an instruction, the independence from its form. -/
theorem registersReadAndWritten : Obligations.RegistersReadAndWritten := by
  refine ⟨fun i s t ht r hr => exec_readReg_of_not_destReg ht hr, ?_⟩
  intro i s s' t t' hrun hrun' hpc himem hstore hparams hr ht ht'
  have hsame : SameButRegisters s s' := ⟨hpc, hrun.trans hrun'.symm, himem, hstore, hparams⟩
  obtain ⟨u, u', hu, hu', ⟨hpc, hstatus, himem, hstore, hparams⟩, hwritten⟩ := exec_sameResult hsame hr
  obtain rfl : u = t := Host.Outcome.next.inj (hu.symm.trans ht)
  obtain rfl : u' = t' := Host.Outcome.next.inj (hu'.symm.trans ht')
  exact ⟨hpc, hstatus, himem, hstore, hparams, hwritten⟩

/-! ## Over a run -/

/-- A run of `k + 1` steps is a step and a run of `k`. -/
theorem run_succ_eq_next_iff {M : Host.Core} {k : Nat} {s t : M.State} :
    M.run (k + 1) s = .next t ↔ ∃ u, M.step s = .next u ∧ M.run k u = .next t := by
  rw [Host.Core.run]
  cases M.step s <;> simp

theorem step_readReg_of_not_destReg {s t : State} {r : RegIdx} (h : step s = .next t)
    (hr : ∀ i, FetchesInstr s i → destReg i ≠ some r) : t.readReg r = s.readReg r := by
  obtain ⟨-, ⟨o, -, rfl⟩ | ⟨i, hfetch, -, he⟩⟩ := step_cases h
  · exact s.readReg_terminate o r
  · exact he.readReg_of_not_destReg (hr i (State.fetchInstr_eq_ok_iff.1 hfetch))

theorem run_readReg_of_not_destReg {k : Nat} {s t : State} {r : RegIdx} (h : core.run k s = .next t)
    (hr : ∀ j < k, ∀ u i, core.run j s = .next u → FetchesInstr u i → destReg i ≠ some r) :
    t.readReg r = s.readReg r := by
  induction k generalizing s with
  | zero =>
    cases h
    rfl
  | succ k ih =>
    obtain ⟨u, hstep, hrun⟩ := run_succ_eq_next_iff.1 h
    have hlater : t.readReg r = u.readReg r := ih hrun fun j hj v i hv =>
      hr (j + 1) (Nat.succ_lt_succ hj) v i (run_succ_eq_next_iff.2 ⟨u, hstep, hv⟩)
    have hfirst : u.readReg r = s.readReg r :=
      step_readReg_of_not_destReg hstep fun i => hr 0 k.succ_pos s i rfl
    exact hlater.trans hfirst

/-- Settles O43: the read after a write, and the frame of a step carried along the run by induction. -/
theorem registersKeepTheirLastWrite : Obligations.RegistersKeepTheirLastWrite := by
  refine ⟨fun s r v hr => ?_, fun k s t r h hr => run_readReg_of_not_destReg h hr⟩
  rw [State.readReg_writeReg, if_pos ⟨rfl, hr⟩]

end Sys2Proof.Machine
end

section
/-! PROOFS. The signed immediates as integers (R64 to R66, R68, R69), and the shift amount of a decoded shift. -/

namespace Sys2Proof

/-! ## Immediates as integers -/

/-- A fragment that ends at word bit 31 counts that bit negative: the sign bit of R69. -/
theorem toInt_topFragment (w : Word) {lo len : Nat} (hlen : 31 = lo + len) :
    (w.extractLsb' lo (1 + len)).toInt = (w.toNat / 2 ^ lo % 2 ^ len : Nat) - (w.toNat / 2 ^ 31 * 2 ^ len : Nat) := by
  have hsign : ∀ b : BitVec 1, b.toInt = -(b.toNat : Int) := by decide
  have hbit : (w.extractLsb' 31 1).toNat = w.toNat / 2 ^ 31 := by
    rw [BitVec.extractLsb'_toNat, Nat.shiftRight_eq_div_pow]
    omega
  rw [← BitVec.extractLsb'_append_extractLsb'_eq_extractLsb' hlen, BitVec.toInt_append, if_neg (by simp), hsign,
    hbit, BitVec.extractLsb'_toNat, Nat.shiftRight_eq_div_pow]
  push_cast
  ring

theorem toInt_signBit (w : Word) : (w.extractLsb' 31 1).toInt = -(w.toNat / 2 ^ 31 : Nat) := by
  have htop := toInt_topFragment w (lo := 31) (len := 0) rfl
  rwa [pow_zero, Nat.mod_one, Nat.mul_one, Nat.cast_zero, Int.zero_sub] at htop

theorem toInt_immI (w : Word) :
    (immI w).toInt = (w.toNat / 2 ^ 20 % 2 ^ 11 : Nat) - (w.toNat / 2 ^ 31 * 2 ^ 11 : Nat) :=
  toInt_topFragment w (lo := 20) (len := 11) rfl

theorem toInt_immS (w : Word) :
    (immS w).toInt =
      (w.toNat / 2 ^ 25 % 2 ^ 6 * 32 + w.toNat / 2 ^ 7 % 2 ^ 5 : Nat) - (w.toNat / 2 ^ 31 * 2 ^ 11 : Nat) := by
  have htop := toInt_topFragment w (lo := 25) (len := 6) rfl
  rw [immS, BitVec.toInt_append, if_neg (by simp), htop, BitVec.extractLsb'_toNat, Nat.shiftRight_eq_div_pow]
  push_cast
  ring

/-- The fragments of a branch offset above its forced 0 bit. -/
theorem toInt_immB_eq_two_mul (w : Word) :
    (immB w).toInt =
      2 * (w.extractLsb' 31 1 ++ w.extractLsb' 7 1 ++ w.extractLsb' 25 6 ++ w.extractLsb' 8 4).toInt :=
  BitVec.toInt_append_zero

/-- The fragments of a jump offset above its forced 0 bit. -/
theorem toInt_immJ_eq_two_mul (w : Word) :
    (immJ w).toInt =
      2 * (w.extractLsb' 31 1 ++ w.extractLsb' 12 8 ++ w.extractLsb' 20 1 ++ w.extractLsb' 21 10).toInt :=
  BitVec.toInt_append_zero

theorem toInt_immB (w : Word) :
    (immB w).toInt =
      (w.toNat / 2 ^ 7 % 2 * 2048 + w.toNat / 2 ^ 25 % 2 ^ 6 * 32 + w.toNat / 2 ^ 8 % 2 ^ 4 * 2 : Nat)
        - (w.toNat / 2 ^ 31 * 4096 : Nat) := by
  rw [toInt_immB_eq_two_mul]
  simp only [BitVec.toInt_append, toInt_signBit, BitVec.extractLsb'_toNat, Nat.shiftRight_eq_div_pow]
  push_cast
  ring

theorem toInt_immJ (w : Word) :
    (immJ w).toInt =
      (w.toNat / 2 ^ 12 % 2 ^ 8 * 4096 + w.toNat / 2 ^ 20 % 2 * 2048 + w.toNat / 2 ^ 21 % 2 ^ 10 * 2 : Nat)
        - (w.toNat / 2 ^ 31 * 2 ^ 20 : Nat) := by
  rw [toInt_immJ_eq_two_mul]
  simp only [BitVec.toInt_append, toInt_signBit, BitVec.extractLsb'_toNat, Nat.shiftRight_eq_div_pow]
  push_cast
  ring

/-! ## The shift amount -/

/-- The operand of a decoded SLLI, SRLI or SRAI is the `rs2` field: of the ten families only OP-IMM answers a shift by
an immediate (R72). -/
theorem fieldRs2_of_decode_shift {w : Word} {rd rs1 : RegIdx} {shamt : BitVec 5}
    (h : decode w = .ok (.slli rd rs1 shamt) ∨ decode w = .ok (.srli rd rs1 shamt) ∨
      decode w = .ok (.srai rd rs1 shamt)) : fieldRs2 w = shamt := by
  simp only [decode, decodeOp, decodeOpImm, decodeLoad, decodeStore, decodeBranch, decodeJalr, decodeSystem,
    ite_eq_iff, Except.ok.injEq, reduceCtorEq, Instr.slli.injEq, Instr.srli.injEq, Instr.srai.injEq, and_false,
    false_or, or_false] at h
  tauto

/-- The field is the I-immediate's low 5 bits (R69). -/
theorem toNat_fieldRs2 (w : Word) : (fieldRs2 w).toNat = (immI w).toNat % 2 ^ 5 := by
  rw [fieldRs2, immI, BitVec.extractLsb'_toNat, BitVec.extractLsb'_toNat]
  omega

end Sys2Proof

namespace Sys2Proof.Machine

/-- Settles O5: each immediate from its fragments, the sign bit negative; the shift amount from the `rs2` field. -/
theorem immediatesExtendTheirSignBit : Obligations.ImmediatesExtendTheirSignBit := by
  refine ⟨fun w => ?_, fun w rd rs1 shamt h => ?_⟩
  · simp only [immWord_toInt, branchWord_toInt, jumpWord_toInt]
    exact ⟨toInt_immI w, toInt_immS w, toInt_immB w, toInt_immJ w, ⟨_, toInt_immB_eq_two_mul w⟩,
      ⟨_, toInt_immJ_eq_two_mul w⟩⟩
  · rw [← fieldRs2_of_decode_shift h]
    exact toNat_fieldRs2 w

end Sys2Proof.Machine
end

section
/-! PROOFS. Which fields each family's decoder leaves unlisted, and the error it answers for them (R70 to R79). -/

namespace Sys2Proof

variable {w : Word}

/-! ## Dispatch by opcode (R70) -/

theorem decode_of_opcode_op (h : fieldOpcode w = 0b0110011) : decode w = decodeOp w := by
  simp [decode, h]

theorem decode_of_opcode_opImm (h : fieldOpcode w = 0b0010011) : decode w = decodeOpImm w := by
  simp [decode, h]

theorem decode_of_opcode_load (h : fieldOpcode w = 0b0000011) : decode w = decodeLoad w := by
  simp [decode, h]

theorem decode_of_opcode_store (h : fieldOpcode w = 0b0100011) : decode w = decodeStore w := by
  simp [decode, h]

theorem decode_of_opcode_branch (h : fieldOpcode w = 0b1100011) : decode w = decodeBranch w := by
  simp [decode, h]

theorem decode_of_opcode_jalr (h : fieldOpcode w = 0b1100111) : decode w = decodeJalr w := by
  simp [decode, h]

theorem decode_of_opcode_system (h : fieldOpcode w = 0b1110011) : decode w = decodeSystem w := by
  simp [decode, h]

/-- The ten opcodes of R70. -/
def listedOpcodes : List (BitVec 7) :=
  [0b0110011, 0b0010011, 0b0000011, 0b0100011, 0b1100011, 0b0110111, 0b0010111, 0b1101111, 0b1100111, 0b1110011]

theorem decode_of_opcode_unlisted (h : fieldOpcode w ∉ listedOpcodes) :
    decode w = .error (.unknownOpcode (fieldOpcode w)) := by
  simp only [listedOpcodes, List.mem_cons, List.not_mem_nil, or_false, not_or] at h
  obtain ⟨h1, h2, h3, h4, h5, h6, h7, h8, h9, h10⟩ := h
  rw [decode, if_neg h1, if_neg h2, if_neg h3, if_neg h4, if_neg h5, if_neg h6, if_neg h7, if_neg h8, if_neg h9,
    if_neg h10]

/-- Every listed opcode is one of a 32-bit word: it ends in `11`. -/
theorem lowBits_of_mem_listedOpcodes : ∀ op ∈ listedOpcodes, op.extractLsb' 0 2 = 3#2 := by
  decide

theorem opcode_unlisted_of_lowBits (h : w.extractLsb' 0 2 ≠ 3#2) : fieldOpcode w ∉ listedOpcodes := by
  intro hmem
  have hlow := lowBits_of_mem_listedOpcodes _ hmem
  rw [fieldOpcode, BitVec.extractLsb'_extractLsb'_of_le (by omega)] at hlow
  exact h hlow

/-! ## The unlisted fields of each family (R71 to R75, R77, R78) -/

theorem decodeOp_of_funct7_unlisted (h0 : fieldFunct7 w ≠ 0b0000000) (h32 : fieldFunct7 w ≠ 0b0100000)
    (h1 : fieldFunct7 w ≠ 0b0000001) :
    decodeOp w = .error (.unknownFunct7 (fieldOpcode w) (fieldFunct3 w) (fieldFunct7 w)) := by
  rw [decodeOp, if_neg h0, if_neg h32, if_neg h1]

/-- Under `funct7 = 0100000` only SUB and SRA are listed. -/
theorem decodeOp_of_funct3_unlisted (h7 : fieldFunct7 w = 0b0100000) (h0 : fieldFunct3 w ≠ 0b000)
    (h5 : fieldFunct3 w ≠ 0b101) :
    decodeOp w = .error (.unknownFunct7 (fieldOpcode w) (fieldFunct3 w) (fieldFunct7 w)) := by
  rw [decodeOp, if_neg (by simp [h7]), if_pos h7, if_neg h0, if_neg h5]

theorem decodeOpImm_of_leftShift_unlisted (h3 : fieldFunct3 w = 0b001) (h0 : fieldFunct7 w ≠ 0b0000000#7) :
    decodeOpImm w = .error (.unknownFunct7 (fieldOpcode w) (fieldFunct3 w) (fieldFunct7 w)) := by
  simp [decodeOpImm, h3, h0]

theorem decodeOpImm_of_rightShift_unlisted (h3 : fieldFunct3 w = 0b101) (h0 : fieldFunct7 w ≠ 0b0000000#7)
    (h32 : fieldFunct7 w ≠ 0b0100000#7) :
    decodeOpImm w = .error (.unknownFunct7 (fieldOpcode w) (fieldFunct3 w) (fieldFunct7 w)) := by
  simp [decodeOpImm, h3, h0, h32]

theorem decodeLoad_of_funct3_unlisted (h : fieldFunct3 w ∈ [0b011#3, 0b110#3, 0b111#3]) :
    decodeLoad w = .error (.unknownFunct3 (fieldOpcode w) (fieldFunct3 w)) := by
  simp only [List.mem_cons, List.not_mem_nil, or_false] at h
  rcases h with h3 | h3 | h3 <;> simp [decodeLoad, h3]

theorem decodeStore_of_funct3_unlisted (h : 3 ≤ (fieldFunct3 w).toNat) :
    decodeStore w = .error (.unknownFunct3 (fieldOpcode w) (fieldFunct3 w)) := by
  have hne : ∀ f : BitVec 3, f.toNat < 3 → fieldFunct3 w ≠ f := by
    rintro f hf rfl
    omega
  rw [decodeStore, if_neg (hne _ (by decide)), if_neg (hne _ (by decide)), if_neg (hne _ (by decide))]

theorem decodeBranch_of_funct3_unlisted (h : fieldFunct3 w ∈ [0b010#3, 0b011#3]) :
    decodeBranch w = .error (.unknownFunct3 (fieldOpcode w) (fieldFunct3 w)) := by
  simp only [List.mem_cons, List.not_mem_nil, or_false] at h
  rcases h with h3 | h3 <;> simp [decodeBranch, h3]

theorem decodeJalr_of_funct3_unlisted (h : fieldFunct3 w ≠ 0b000) :
    decodeJalr w = .error (.unknownFunct3 (fieldOpcode w) (fieldFunct3 w)) :=
  if_neg h

theorem decodeSystem_of_ne_ecall (h : w ≠ 0x00000073) : decodeSystem w = .error (.unknownSystem w) :=
  if_neg h

end Sys2Proof

namespace Sys2Proof.Machine

/-- Settles O6: each clause is the dispatch by opcode, then the error of that family's decoder. -/
theorem unlistedFieldsDoNotDecode : Obligations.UnlistedFieldsDoNotDecode := by
  refine ⟨fun w hlow => ?_, fun w hop hw => ?_, fun w hop h3 => ?_, fun w hop h0 h32 h1 => ?_,
    fun w hop h7 h0 h5 => ?_, fun w hop h3 h0 => ?_, fun w hop h3 h0 h32 => ?_, fun w hop h3 => ?_,
    fun w hop h3 => ?_, fun w hop h3 => ?_, fun w hop => ?_⟩
  · exact ⟨_, decode_of_opcode_unlisted (opcode_unlisted_of_lowBits hlow)⟩
  · exact ⟨_, (decode_of_opcode_system hop).trans (decodeSystem_of_ne_ecall hw)⟩
  · exact ⟨_, (decode_of_opcode_jalr hop).trans (decodeJalr_of_funct3_unlisted h3)⟩
  · exact ⟨_, (decode_of_opcode_op hop).trans (decodeOp_of_funct7_unlisted h0 h32 h1)⟩
  · exact ⟨_, (decode_of_opcode_op hop).trans (decodeOp_of_funct3_unlisted h7 h0 h5)⟩
  · exact ⟨_, (decode_of_opcode_opImm hop).trans (decodeOpImm_of_leftShift_unlisted h3 h0)⟩
  · exact ⟨_, (decode_of_opcode_opImm hop).trans (decodeOpImm_of_rightShift_unlisted h3 h0 h32)⟩
  · exact ⟨_, (decode_of_opcode_load hop).trans (decodeLoad_of_funct3_unlisted h3)⟩
  · exact ⟨_, (decode_of_opcode_store hop).trans (decodeStore_of_funct3_unlisted h3)⟩
  · exact ⟨_, (decode_of_opcode_branch hop).trans (decodeBranch_of_funct3_unlisted h3)⟩
  · exact ⟨_, decode_of_opcode_unlisted hop⟩

end Sys2Proof.Machine
end

section
/-! PROOFS. Register-register ALU (R71, R100 to R106, R109, R110): the words of OP, what one register write leaves
unchanged, and the values of ADD, SUB, SLL, SLT, SLTU, XOR, OR and AND. -/

namespace Sys2Proof.Machine

/-! ## The words of OP (R71) -/

/-- The rows of OP: `funct7`, `funct3` and the instruction they select. -/
inductive OpRow : BitVec 7 → BitVec 3 → (RegIdx → RegIdx → RegIdx → Instr) → Prop where
  | add : OpRow 0b0000000 0b000 .add
  | sub : OpRow 0b0100000 0b000 .sub
  | sll : OpRow 0b0000000 0b001 .sll
  | slt : OpRow 0b0000000 0b010 .slt
  | sltu : OpRow 0b0000000 0b011 .sltu
  | xor : OpRow 0b0000000 0b100 .xor
  | srl : OpRow 0b0000000 0b101 .srl
  | sra : OpRow 0b0100000 0b101 .sra
  | or : OpRow 0b0000000 0b110 .or
  | and : OpRow 0b0000000 0b111 .and
  | mul : OpRow 0b0000001 0b000 .mul
  | mulh : OpRow 0b0000001 0b001 .mulh
  | mulhsu : OpRow 0b0000001 0b010 .mulhsu
  | mulhu : OpRow 0b0000001 0b011 .mulhu
  | div : OpRow 0b0000001 0b100 .div
  | divu : OpRow 0b0000001 0b101 .divu
  | rem : OpRow 0b0000001 0b110 .rem
  | remu : OpRow 0b0000001 0b111 .remu

theorem decodeOp_of_row {f7 : BitVec 7} {f3 : BitVec 3} {mk : RegIdx → RegIdx → RegIdx → Instr} {w : Word}
    (hrow : OpRow f7 f3 mk) (h7 : fieldFunct7 w = f7) (h3 : fieldFunct3 w = f3) :
    decodeOp w = .ok (mk (fieldRd w) (fieldRs1 w) (fieldRs2 w)) := by
  cases hrow <;> simp [decodeOp, h7, h3]

/-- The dispatch by opcode, then the row that `funct7` and `funct3` select. -/
theorem OpRow.decodesOp {f7 : BitVec 7} {f3 : BitVec 3} {mk : RegIdx → RegIdx → RegIdx → Instr}
    (hrow : OpRow f7 f3 mk) : DecodesOp f7 f3 mk :=
  fun _ hop h3 h7 => (decode_of_opcode_op hop).trans (decodeOp_of_row hrow h7 h3)

/-! ## One register write and the advance of the pc (R100) -/

theorem State.writesOnly_writeAndAdvance (s : State) (rd : RegIdx) (v : Word) :
    WritesOnly s (s.writeAndAdvance rd v) rd v (s.pc + 4) := by
  refine ⟨?written, ?others, s.writeAndAdvance_pc rd v, s.writeAndAdvance_status rd v, ?memories⟩
  case written =>
    by_cases h : rd = 0#5 <;> simp [State.readReg_writeAndAdvance, h]
  case others =>
    intro r hr
    simp [State.readReg_writeAndAdvance, hr]
  case memories =>
    exact ⟨fun j => by rw [s.writeAndAdvance_store], s.writeAndAdvance_imem rd v, s.writeAndAdvance_params rd v⟩

/-- An instruction that runs the shared operation has the frame of its family; what is left to show is the value. -/
theorem registerResult_of_writeAndAdvance {i : Instr} {s : State} {rd : RegIdx} {v : Word} {P : Word → Prop}
    (hexec : exec i s = .next (s.writeAndAdvance rd v)) (hv : P v) : RegisterResult i s rd P :=
  ⟨_, v, hexec, s.writesOnly_writeAndAdvance rd v, hv⟩

/-! ## The values -/

/-- A difference wraps modulo 2^32 (R102, D15). -/
theorem toNat_sub_word (a b : Word) : ((a - b).toNat : Int) = ((a.toNat : Int) - b.toNat) % 2 ^ 32 := by
  have hb := b.isLt
  rw [BitVec.toNat_sub]
  omega

/-- A left shift by the low 5 bits multiplies by that power of two (R103). -/
theorem toNat_shiftLeft_shiftAmount (a b : Word) :
    (a <<< shiftAmount b).toNat = a.toNat * 2 ^ (b.toNat % 32) % 2 ^ 32 := by
  rw [BitVec.toNat_shiftLeft, Nat.shiftLeft_eq, shiftAmount_eq]

theorem toNat_boolWord_ltSigned (a b : Word) :
    (boolWord (ltSigned a b)).toNat = if a.toInt < b.toInt then 1 else 0 := by
  simp only [boolWord_toNat, ltSigned_iff]

theorem toNat_boolWord_ltUnsigned (a b : Word) :
    (boolWord (ltUnsigned a b)).toNat = if a.toNat < b.toNat then 1 else 0 := by
  simp only [boolWord_toNat, ltUnsigned_iff]

/-- Settles O7: for each of the eight, its row of OP, the frame of the shared register write, and its value. -/
theorem registerAluResults : Obligations.RegisterAluResults := by
  refine ⟨⟨OpRow.add.decodesOp, fun s rd rs1 rs2 => ?_⟩, ⟨OpRow.sub.decodesOp, fun s rd rs1 rs2 => ?_⟩,
    ⟨OpRow.sll.decodesOp, fun s rd rs1 rs2 => ?_⟩, ⟨OpRow.slt.decodesOp, fun s rd rs1 rs2 => ?_⟩,
    ⟨OpRow.sltu.decodesOp, fun s rd rs1 rs2 => ?_⟩, ⟨OpRow.xor.decodesOp, fun s rd rs1 rs2 => ?_⟩,
    ⟨OpRow.or.decodesOp, fun s rd rs1 rs2 => ?_⟩, ⟨OpRow.and.decodesOp, fun s rd rs1 rs2 => ?_⟩⟩
  · exact registerResult_of_writeAndAdvance rfl (BitVec.toNat_add _ _)
  · exact registerResult_of_writeAndAdvance rfl (toNat_sub_word _ _)
  · exact registerResult_of_writeAndAdvance rfl (toNat_shiftLeft_shiftAmount _ _)
  · exact registerResult_of_writeAndAdvance rfl (toNat_boolWord_ltSigned _ _)
  · exact registerResult_of_writeAndAdvance rfl (toNat_boolWord_ltUnsigned _ _)
  · exact registerResult_of_writeAndAdvance rfl fun _ _ => BitVec.getLsbD_xor
  · exact registerResult_of_writeAndAdvance rfl fun _ _ => BitVec.getLsbD_or
  · exact registerResult_of_writeAndAdvance rfl fun _ _ => BitVec.getLsbD_and

end Sys2Proof.Machine
end

section
/-! PROOFS. Multiply and unsigned divide (R120 to R122, R124, R126, R128): the high word of a product is the product's
floor division by 2^32, and DIVU and REMU are the bit vectors' own `/` and `%` except at divisor 0. -/

namespace Sys2Proof.Machine

/-! ## The high word of an exact product (R122 to R124) -/

/-- The bits 63 to 32 of the 64-bit form are the floor quotient by 2^32, for every integer. -/
theorem highWord_eq_ofInt (p : Int) : highWord p = BitVec.ofInt 32 (p / 2 ^ 32) := by
  apply BitVec.eq_of_toNat_eq
  rw [highWord, BitVec.extractLsb'_toNat, BitVec.toNat_ofInt, BitVec.toNat_ofInt, Nat.shiftRight_eq_div_pow]
  omega

/-- A product in the signed 64-bit range has its floor quotient as the signed value of its high word. -/
theorem toInt_highWord {p : Int} (hlow : -2 ^ 63 ≤ p) (hhigh : p < 2 ^ 63) : (highWord p).toInt = p / 2 ^ 32 := by
  rw [highWord_eq_ofInt]
  exact BitVec.toInt_ofInt_eq_self (by decide) (by omega) (by omega)

/-- A product in the unsigned 64-bit range has its quotient as the unsigned value of its high word. -/
theorem toNat_highWord {p : Nat} (hp : p < 2 ^ 64) : (highWord p).toNat = p / 2 ^ 32 := by
  rw [highWord_eq_ofInt, BitVec.toNat_ofInt]
  omega

/-- Two signed words have a product of magnitude at most 2^62 (R122). -/
theorem toInt_highWord_mul_signed (a b : Word) :
    (highWord (a.toInt * b.toInt)).toInt = a.toInt * b.toInt / 2 ^ 32 := by
  have hlow : -2 ^ 62 ≤ a.toInt * b.toInt := BitVec.le_toInt_mul_toInt
  have hhigh : a.toInt * b.toInt ≤ 2 ^ 62 := BitVec.toInt_mul_toInt_le
  exact toInt_highWord (hlow.trans' (by decide)) (hhigh.trans_lt (by decide))

/-- Two unsigned words have a product below 2^64 (R124). -/
theorem toNat_highWord_mul_unsigned (a b : Word) :
    (highWord ((a.toNat : Int) * (b.toNat : Int))).toNat = a.toNat * b.toNat / 2 ^ 32 := by
  rw [← Int.natCast_mul]
  exact toNat_highWord BitVec.toNat_mul_toNat_lt

/-! ## Unsigned quotient and remainder (R126, R128) -/

theorem quotUnsigned_zero (a : Word) : quotUnsigned a 0#32 = a :=
  if_pos rfl

theorem remUnsigned_zero (a : Word) : remUnsigned a 0#32 = a :=
  if_pos rfl

theorem quotUnsigned_of_ne_zero (a : Word) {b : Word} (hb : b ≠ 0#32) : quotUnsigned a b = a / b := by
  rw [quotUnsigned, if_neg hb, BitVec.udiv_def]

theorem remUnsigned_of_ne_zero (a : Word) {b : Word} (hb : b ≠ 0#32) : remUnsigned a b = a % b := by
  rw [remUnsigned, if_neg hb, BitVec.umod_def]

theorem toNat_quotUnsigned (a b : Word) :
    (quotUnsigned a b).toNat = if b.toNat = 0 then a.toNat else a.toNat / b.toNat := by
  by_cases hb : b = 0#32
  · subst hb
    rw [quotUnsigned_zero, if_pos (by decide)]
  · have hpos : b.toNat ≠ 0 := BitVec.toNat_ne.1 hb
    rw [quotUnsigned_of_ne_zero a hb, BitVec.toNat_udiv, if_neg hpos]

theorem toNat_remUnsigned (a b : Word) :
    (remUnsigned a b).toNat = if b.toNat = 0 then a.toNat else a.toNat % b.toNat := by
  by_cases hb : b = 0#32
  · subst hb
    rw [remUnsigned_zero, if_pos (by decide)]
  · have hpos : b.toNat ≠ 0 := BitVec.toNat_ne.1 hb
    rw [remUnsigned_of_ne_zero a hb, BitVec.toNat_umod, if_neg hpos]

/-- Settles O9: for each of the five, its row of OP, the frame of the shared register write, and its value. -/
theorem multiplyAndUnsignedDivideResults : Obligations.MultiplyAndUnsignedDivideResults := by
  refine ⟨⟨OpRow.mul.decodesOp, fun s rd rs1 rs2 => ?mul⟩, ⟨OpRow.mulh.decodesOp, fun s rd rs1 rs2 => ?mulh⟩,
    ⟨OpRow.mulhu.decodesOp, fun s rd rs1 rs2 => ?mulhu⟩, ⟨OpRow.divu.decodesOp, fun s rd rs1 rs2 => ?divu⟩,
    ⟨OpRow.remu.decodesOp, fun s rd rs1 rs2 => ?remu⟩⟩
  case mul => exact registerResult_of_writeAndAdvance rfl (BitVec.toNat_ofNat _ _)
  case mulh => exact registerResult_of_writeAndAdvance rfl (toInt_highWord_mul_signed _ _)
  case mulhu => exact registerResult_of_writeAndAdvance rfl (toNat_highWord_mul_unsigned _ _)
  case divu => exact registerResult_of_writeAndAdvance rfl (toNat_quotUnsigned _ _)
  case remu => exact registerResult_of_writeAndAdvance rfl (toNat_remUnsigned _ _)

end Sys2Proof.Machine
end

section
/-! PROOFS. Register-immediate ALU (R72, R140 to R146): the words of OP-IMM that carry a 12-bit immediate, the
sign-extended immediate as an unsigned word and bit by bit, and the values of ADDI, SLTI, SLTIU, XORI, ORI and ANDI. -/

namespace Sys2Proof.Machine

/-! ## The words of OP-IMM with an immediate (R72) -/

/-- The rows of OP-IMM other than the shifts: `funct3` and the instruction it selects. -/
inductive OpImmRow : BitVec 3 → (RegIdx → RegIdx → BitVec 12 → Instr) → Prop where
  | addi : OpImmRow 0b000 .addi
  | slti : OpImmRow 0b010 .slti
  | sltiu : OpImmRow 0b011 .sltiu
  | xori : OpImmRow 0b100 .xori
  | ori : OpImmRow 0b110 .ori
  | andi : OpImmRow 0b111 .andi

theorem decodeOpImm_of_row {f3 : BitVec 3} {mk : RegIdx → RegIdx → BitVec 12 → Instr} {w : Word}
    (hrow : OpImmRow f3 mk) (h3 : fieldFunct3 w = f3) :
    decodeOpImm w = .ok (mk (fieldRd w) (fieldRs1 w) (immI w)) := by
  cases hrow <;> simp [decodeOpImm, h3]

/-- The dispatch by opcode, then the row that `funct3` selects. -/
theorem OpImmRow.decodesI {f3 : BitVec 3} {mk : RegIdx → RegIdx → BitVec 12 → Instr} (hrow : OpImmRow f3 mk) :
    DecodesI 0b0010011 f3 mk :=
  fun _ hop h3 => (decode_of_opcode_opImm hop).trans (decodeOpImm_of_row hrow h3)

/-! ## The sign-extended immediate (R64) -/

/-- Read as unsigned, the extended immediate is its signed value modulo 2^32. -/
theorem toNat_immWord (imm : BitVec 12) : ((immWord imm).toNat : Int) = imm.toInt % 2 ^ 32 := by
  rw [immWord, BitVec.signExtend, BitVec.toNat_ofInt]
  exact Int.toNat_of_nonneg (Int.emod_nonneg _ (by decide))

theorem getLsbD_immWord (imm : BitVec 12) {k : Nat} (hk : k < 32) :
    (immWord imm).getLsbD k = imm.getLsbD (min k 11) :=
  getLsbD_signExtend_word imm hk

/-! ## The values -/

/-- A sum with the immediate wraps modulo 2^32 (R141, D15). -/
theorem toNat_add_immWord (a : Word) (imm : BitVec 12) :
    ((a + immWord imm).toNat : Int) = (a.toNat + imm.toInt) % 2 ^ 32 := by
  have himm := toNat_immWord imm
  rw [BitVec.toNat_add]
  omega

theorem toNat_boolWord_ltSigned_immWord (a : Word) (imm : BitVec 12) :
    (boolWord (ltSigned a (immWord imm))).toNat = if a.toInt < imm.toInt then 1 else 0 := by
  rw [toNat_boolWord_ltSigned, immWord_toInt]

/-- The unsigned comparison is with the immediate after its sign extension (R143). -/
theorem toNat_boolWord_ltUnsigned_immWord (a : Word) (imm : BitVec 12) :
    (boolWord (ltUnsigned a (immWord imm))).toNat = if (a.toNat : Int) < imm.toInt % 2 ^ 32 then 1 else 0 := by
  simp only [toNat_boolWord_ltUnsigned, ← toNat_immWord, Nat.cast_lt]

/-- Settles O12: for each of the six, its row of OP-IMM, the frame of the shared register write, and its value. -/
theorem immediateAluResults : Obligations.ImmediateAluResults := by
  refine ⟨⟨OpImmRow.addi.decodesI, fun s rd rs1 imm => ?addi⟩, ⟨OpImmRow.slti.decodesI, fun s rd rs1 imm => ?slti⟩,
    ⟨OpImmRow.sltiu.decodesI, fun s rd rs1 imm => ?sltiu⟩, ⟨OpImmRow.xori.decodesI, fun s rd rs1 imm => ?xori⟩,
    ⟨OpImmRow.ori.decodesI, fun s rd rs1 imm => ?ori⟩, ⟨OpImmRow.andi.decodesI, fun s rd rs1 imm => ?andi⟩⟩
  case addi => exact registerResult_of_writeAndAdvance rfl (toNat_add_immWord _ _)
  case slti => exact registerResult_of_writeAndAdvance rfl (toNat_boolWord_ltSigned_immWord _ _)
  case sltiu => exact registerResult_of_writeAndAdvance rfl (toNat_boolWord_ltUnsigned_immWord _ _)
  case xori =>
    exact registerResult_of_writeAndAdvance rfl fun _ hk => by
      rw [BitVec.getLsbD_xor, getLsbD_immWord imm hk]
  case ori =>
    exact registerResult_of_writeAndAdvance rfl fun _ hk => by
      rw [BitVec.getLsbD_or, getLsbD_immWord imm hk]
  case andi =>
    exact registerResult_of_writeAndAdvance rfl fun _ hk => by
      rw [BitVec.getLsbD_and, getLsbD_immWord imm hk]

end Sys2Proof.Machine
end

section
/-! PROOFS. Loads (R73, R160 to R165): the words of LOAD, `MemRead` in logical addresses for either read direction, the
bounds under the default direction, and the values of LB, LH, LW, LBU and LHU. -/

namespace Sys2Proof.Machine

/-! ## The words of LOAD (R73) -/

/-- The rows of LOAD: `funct3` and the instruction it selects. -/
inductive LoadRow : BitVec 3 → (RegIdx → RegIdx → BitVec 12 → Instr) → Prop where
  | lb : LoadRow 0b000 .lb
  | lh : LoadRow 0b001 .lh
  | lw : LoadRow 0b010 .lw
  | lbu : LoadRow 0b100 .lbu
  | lhu : LoadRow 0b101 .lhu

theorem decodeLoad_of_row {f3 : BitVec 3} {mk : RegIdx → RegIdx → BitVec 12 → Instr} {w : Word}
    (hrow : LoadRow f3 mk) (h3 : fieldFunct3 w = f3) : decodeLoad w = .ok (mk (fieldRd w) (fieldRs1 w) (immI w)) := by
  cases hrow <;> simp [decodeLoad, h3]

/-- The dispatch by opcode, then the row that `funct3` selects. -/
theorem LoadRow.decodesI {f3 : BitVec 3} {mk : RegIdx → RegIdx → BitVec 12 → Instr} (hrow : LoadRow f3 mk) :
    DecodesI 0b0000011 f3 mk :=
  fun _ hop h3 => (decode_of_opcode_load hop).trans (decodeLoad_of_row hrow h3)

/-! ## `MemRead` in logical addresses (R44, R46 to R48) -/

/-- The word of `n` bytes, byte 0 least significant. -/
def littleEndianWord (byte : Int → Byte) (n : Nat) : Word :=
  BitVec.ofNat 32 (assembleBytes ((List.range n).map fun k : Nat => byte k))

theorem readIndices_eq_map (p : Params) (ea : Word) (n : Nat) :
    readIndices p ea n =
      (List.range n).map fun k : Nat => storeIndex p.capacity ea + scanStep p.readDirection * (k : Int) := by
  simp [readIndices, ← List.map_eq_flatMap]

/-- Byte `k` of a load comes from `k` logical addresses below `ea` (increasing index) or above it (decreasing). -/
theorem State.logicalByte_of_scan (s : State) (ea : Word) (k : Int) :
    s.logicalByte (ea.toInt - scanStep s.params.readDirection * k) =
      s.store.read (storeIndex s.params.capacity ea + scanStep s.params.readDirection * k).toNat := by
  rw [State.logicalByte, storeIndex, sub_sub_eq_add_sub, sub_add_eq_add_sub]

/-- A read whose every byte is in the store gives the word of those bytes, in either direction. -/
theorem State.memRead_eq_ite {s : State} {ea : Word} {byte : Int → Byte} (n : Nat)
    (hbyte : ∀ k, byte k = s.logicalByte (ea.toInt - scanStep s.params.readDirection * k)) :
    s.memRead ea n =
      if indicesOk s.params (readIndices s.params ea n) then some (littleEndianWord byte n) else none := by
  simp only [State.memRead, littleEndianWord, readIndices_eq_map, List.map_map, Function.comp_def, hbyte,
    State.logicalByte_of_scan]

/-- Toward increasing index the bytes of an access run down to logical address `ea − n + 1`, so that it is in the store
exactly where its first and last byte are (R47). -/
theorem readIndices_ok_iff_of_increasingIndex {p : Params} {ea : Word} {n : Nat}
    (hdir : p.readDirection = .increasingIndex) (hn : 1 ≤ n) :
    indicesOk p (readIndices p ea n) = true ↔ n ≤ ea.toInt ∧ ea.toInt ≤ p.capacity := by
  rw [readIndices_ok_iff]
  simp only [hdir, scanStep, storeIndex, one_mul]
  constructor
  · intro hall
    have hfirst := hall 0 hn
    have hlast := hall (n - 1) (Nat.sub_one_lt_of_le hn le_rfl)
    omega
  · intro hbounds k hk
    omega

/-- An instruction that runs the shared load has the two outcomes of its family; what is left to show is the bounds
check and the extended value. -/
theorem loadResult_of_loadAt {i : Instr} {s : State} {n : Nat} {extend : Word → Word} {rd rs1 : RegIdx}
    {imm : BitVec 12} {ea : Word} {byte : Int → Byte} {ok : Prop} {P : Word → Prop}
    (hexec : exec i s = .next (s.loadAt n extend rd rs1 imm)) (hea : ea = s.effectiveAddress rs1 imm)
    (hbyte : ∀ k, byte k = s.logicalByte (ea.toInt - scanStep s.params.readDirection * k))
    (hok : indicesOk s.params (readIndices s.params ea n) = true ↔ ok) (hv : P (extend (littleEndianWord byte n))) :
    LoadResult i s rd ea ok P := by
  rw [State.loadAt, ← hea, State.memRead_eq_ite n hbyte] at hexec
  constructor
  · intro h
    rw [if_pos (hok.2 h)] at hexec
    exact registerResult_of_writeAndAdvance hexec hv
  · intro h
    rw [if_neg (mt hok.1 h)] at hexec
    exact hexec

/-! ## The values (R161 to R165), from the bytes -/

theorem assembleBytes_lt (bs : List Byte) : assembleBytes bs < 2 ^ (8 * bs.length) := by
  induction bs with
  | nil => decide
  | cons b bs ih =>
    have hb := b.isLt
    rw [assembleBytes, List.length_cons, Nat.mul_add_one, Nat.pow_add]
    omega

section
variable (byte : Int → Byte)

/-- Up to four bytes fit a word, so that their sum is not cut. -/
theorem toNat_littleEndianWord {n : Nat} (hn : n ≤ 4) :
    (littleEndianWord byte n).toNat = assembleBytes ((List.range n).map fun k : Nat => byte k) := by
  have hlt := assembleBytes_lt ((List.range n).map fun k : Nat => byte k)
  rw [List.length_map, List.length_range] at hlt
  have hfits : 2 ^ (8 * n) ≤ 2 ^ 32 := Nat.pow_le_pow_right (by decide) (by omega)
  rw [littleEndianWord, BitVec.toNat_ofNat]
  exact Nat.mod_eq_of_lt (hlt.trans_le hfits)

theorem toNat_littleEndianWord_one : (littleEndianWord byte 1).toNat = (byte 0).toNat :=
  toNat_littleEndianWord byte (by decide)

theorem toNat_littleEndianWord_two : (littleEndianWord byte 2).toNat = (byte 0).toNat + 256 * (byte 1).toNat :=
  toNat_littleEndianWord byte (by decide)

theorem toNat_littleEndianWord_four :
    (littleEndianWord byte 4).toNat =
      (byte 0).toNat + 2 ^ 8 * (byte 1).toNat + 2 ^ 16 * (byte 2).toNat + 2 ^ 24 * (byte 3).toNat := by
  have hsum : (littleEndianWord byte 4).toNat =
      (byte 0).toNat + 256 * ((byte 1).toNat + 256 * ((byte 2).toNat + 256 * (byte 3).toNat)) :=
    toNat_littleEndianWord byte le_rfl
  omega

theorem toNat_zext_littleEndianWord_one : (zext 8 (littleEndianWord byte 1)).toNat = (byte 0).toNat := by
  have h0 := (byte 0).isLt
  rw [zext, BitVec.toNat_setWidth, BitVec.toNat_setWidth, toNat_littleEndianWord_one]
  omega

theorem toNat_zext_littleEndianWord_two :
    (zext 16 (littleEndianWord byte 2)).toNat = (byte 0).toNat + 256 * (byte 1).toNat := by
  have h0 := (byte 0).isLt
  have h1 := (byte 1).isLt
  rw [zext, BitVec.toNat_setWidth, BitVec.toNat_setWidth, toNat_littleEndianWord_two]
  omega

/-- A sign extension has the signed value of the bits it extends. -/
theorem toInt_sext_eq_toInt_setWidth {n : Nat} (v : Word) (hle : n ≤ 32) : (sext n v).toInt = (v.setWidth n).toInt :=
  BitVec.toInt_signExtend_of_le hle

theorem toInt_sext_littleEndianWord_one : (sext 8 (littleEndianWord byte 1)).toInt = (byte 0).toInt := by
  have hlow : (littleEndianWord byte 1).setWidth 8 = byte 0 :=
    BitVec.eq_of_toNat_eq (by
      rw [BitVec.toNat_setWidth, toNat_littleEndianWord_one, Nat.mod_eq_of_lt (byte 0).isLt])
  rw [toInt_sext_eq_toInt_setWidth _ (by decide), hlow]

/-- Byte 1 is the high half of the 16 bits, so that it alone counts signed. -/
theorem toInt_sext_littleEndianWord_two :
    (sext 16 (littleEndianWord byte 2)).toInt = (byte 0).toNat + 256 * (byte 1).toInt := by
  have h0 := (byte 0).isLt
  have h1 := (byte 1).isLt
  have hlow : (littleEndianWord byte 2).setWidth 16 = byte 1 ++ byte 0 := BitVec.eq_of_toNat_eq (by
    rw [BitVec.toNat_setWidth, toNat_littleEndianWord_two, BitVec.toNat_append, ← Nat.shiftLeft_add_eq_or_of_lt h0,
      Nat.shiftLeft_eq]
    omega)
  rw [toInt_sext_eq_toInt_setWidth _ (by decide), hlow, BitVec.toInt_append, if_neg (by decide)]
  omega

end

/-- Settles O14: the five words from the rows of LOAD; for each load its bounds toward increasing index, and its value
from the bytes. -/
theorem loadsTowardIncreasingIndex : Obligations.LoadsTowardIncreasingIndex := by
  refine ⟨⟨LoadRow.lb.decodesI, LoadRow.lh.decodesI, LoadRow.lw.decodesI, LoadRow.lbu.decodesI,
    LoadRow.lhu.decodesI⟩, ?_⟩
  intro s rd rs1 imm ea cap byte hdir hea hcap hbytes
  subst hcap
  have hbyte : ∀ k, byte k = s.logicalByte (ea.toInt - scanStep s.params.readDirection * k) := fun k => by
    rw [hbytes, hdir, scanStep, one_mul]
  have hok {n : Nat} (hn : 1 ≤ n) := readIndices_ok_iff_of_increasingIndex (ea := ea) hdir hn
  refine ⟨?lb, ?lh, ?lw, ?lbu, ?lhu⟩
  case lb => exact loadResult_of_loadAt rfl hea hbyte (hok (by decide)) (toInt_sext_littleEndianWord_one byte)
  case lh => exact loadResult_of_loadAt rfl hea hbyte (hok (by decide)) (toInt_sext_littleEndianWord_two byte)
  case lw => exact loadResult_of_loadAt rfl hea hbyte (hok (by decide)) (toNat_littleEndianWord_four byte)
  case lbu => exact loadResult_of_loadAt rfl hea hbyte (hok (by decide)) (toNat_zext_littleEndianWord_one byte)
  case lhu => exact loadResult_of_loadAt rfl hea hbyte (hok (by decide)) (toNat_zext_littleEndianWord_two byte)

end Sys2Proof.Machine
end

section
/-! PROOFS. Stores (R74, R180 to R183): the words of STORE, the indices of `MemWrite` and their bounds in logical
addresses, the bytes after it, and the two outcomes of SB, SH and SW. -/

namespace Sys2Proof.Machine

/-! ## The words of STORE (R74) -/

/-- The rows of STORE: `funct3` and the instruction it selects. -/
inductive StoreRow : BitVec 3 → (RegIdx → RegIdx → BitVec 12 → Instr) → Prop where
  | sb : StoreRow 0b000 .sb
  | sh : StoreRow 0b001 .sh
  | sw : StoreRow 0b010 .sw

theorem decodeStore_of_row {f3 : BitVec 3} {mk : RegIdx → RegIdx → BitVec 12 → Instr} {w : Word}
    (hrow : StoreRow f3 mk) (h3 : fieldFunct3 w = f3) :
    decodeStore w = .ok (mk (fieldRs2 w) (fieldRs1 w) (immS w)) := by
  cases hrow <;> simp [decodeStore, h3]

/-- The S-immediate is the 7-bit fragment above the 5-bit one (R65). -/
theorem toNat_immS (w : Word) : (immS w).toNat = 32 * (w.extractLsb' 25 7).toNat + (w.extractLsb' 7 5).toNat := by
  rw [immS, BitVec.toNat_append, ← Nat.shiftLeft_add_eq_or_of_lt (w.extractLsb' 7 5).isLt, Nat.shiftLeft_eq,
    Nat.mul_comm]

/-- The dispatch by opcode, then the row that `funct3` selects. -/
theorem StoreRow.decodesStore {f3 : BitVec 3} {mk : RegIdx → RegIdx → BitVec 12 → Instr} (hrow : StoreRow f3 mk) :
    DecodesStore f3 mk :=
  fun w hop h3 => ⟨immS w, toNat_immS w, (decode_of_opcode_store hop).trans (decodeStore_of_row hrow h3)⟩

/-! ## The indices of `MemWrite` (R45 to R47) -/

section
variable {p : Params} {ea : Word} {n : Nat}

theorem writeIndices_eq_map (p : Params) (ea : Word) (n : Nat) :
    writeIndices p ea n = (List.range n).map fun k : Nat => storeIndex p.capacity ea - (k : Int) := by
  simp [writeIndices, ← List.map_eq_flatMap]

theorem length_writeIndices : (writeIndices p ea n).length = n := by
  rw [writeIndices_eq_map, List.length_map, List.length_range]

theorem getElem_writeIndices {k : Nat} (hk : k < (writeIndices p ea n).length) :
    (writeIndices p ea n)[k] = storeIndex p.capacity ea - k := by
  simp only [writeIndices_eq_map, List.getElem_map, List.getElem_range]

theorem mem_writeIndices_iff {j : Int} : j ∈ writeIndices p ea n ↔ ∃ k < n, storeIndex p.capacity ea - k = j := by
  simp only [writeIndices_eq_map, List.mem_map, List.mem_range]

/-- The bytes of a store run up to logical address `ea + n`, so that all of them are in the store exactly where the
first and the last one are (R47). -/
theorem writeIndices_succ_ok_iff :
    indicesOk p (writeIndices p ea (n + 1)) = true ↔ 1 ≤ ea.toInt ∧ ea.toInt ≤ p.capacity - n := by
  rw [writeIndices_ok_iff]
  simp only [storeIndex]
  constructor
  · intro hall
    have hfirst := hall 0 n.succ_pos
    have hlast := hall n n.lt_succ_self
    omega
  · intro hbounds k hk
    omega

/-- Indices in the store are pairwise different places in it: none of the access's bytes is written over by another. -/
theorem nodup_toNat_writeIndices (hok : indicesOk p (writeIndices p ea n) = true) :
    ((writeIndices p ea n).map Int.toNat).Nodup := by
  rw [writeIndices_ok_iff] at hok
  rw [writeIndices_eq_map, List.map_map]
  refine List.Nodup.map_on (fun k hk l hl hkl => ?_) List.nodup_range
  have hk := hok k (List.mem_range.1 hk)
  have hl := hok l (List.mem_range.1 hl)
  rw [Function.comp_apply, Function.comp_apply] at hkl
  omega

end

/-! ## The bytes after `MemWrite` (R45) -/

theorem toNat_byteOf (v : Word) (k : Nat) : (byteOf v k).toNat = v.toNat / 2 ^ (8 * k) % 256 := by
  rw [byteOf, BitVec.extractLsb'_toNat, Nat.shiftRight_eq_div_pow]

/-- At pairwise different indices, the byte at each one is the one written there. -/
theorem Memory.read_writeBytes_getElem {m : Memory} (h : m.wf) {js : List Int} (hjs : (js.map Int.toNat).Nodup)
    (k : Nat) (v : Word) {l : Nat} (hl : l < js.length) :
    (m.writeBytes js k v).read js[l].toNat = byteOf v (k + l) := by
  induction js generalizing m k l with
  | nil => exact absurd hl (Nat.not_lt_zero l)
  | cons j js ih =>
    rw [List.map_cons, List.nodup_cons] at hjs
    obtain ⟨hj, hjs⟩ := hjs
    have hwf : (m.write j.toNat (byteOf v k)).wf := Memory.wf_write h _ _
    cases l with
    | zero =>
      have hlater : ∀ i ∈ js, j.toNat ≠ i.toNat := fun i hi e => hj (e ▸ List.mem_map_of_mem hi)
      rw [List.getElem_cons_zero, Memory.writeBytes, Memory.read_writeBytes_of_not_mem hwf hlater,
        Memory.read_write h, if_pos rfl, Nat.add_zero]
    | succ l =>
      rw [List.getElem_cons_succ, Memory.writeBytes, ih hwf hjs, Nat.add_right_comm, Nat.add_assoc]

section
variable {m : Memory} {p : Params} {ea : Word} {n : Nat}

theorem Memory.read_writeBytes_writeIndices (h : m.wf) (hok : indicesOk p (writeIndices p ea n) = true) (v : Word)
    {k : Nat} (hk : k < n) :
    (m.writeBytes (writeIndices p ea n) 0 v).read (storeIndex p.capacity ea - k).toNat = byteOf v k := by
  have hlen : k < (writeIndices p ea n).length := length_writeIndices.symm ▸ hk
  rw [← getElem_writeIndices hlen, Memory.read_writeBytes_getElem h (nodup_toNat_writeIndices hok), Nat.zero_add]

theorem Memory.read_writeBytes_writeIndices_of_ne (h : m.wf) (hok : indicesOk p (writeIndices p ea n) = true)
    (v : Word) {j : Nat} (hj : ∀ k < n, (j : Int) ≠ storeIndex p.capacity ea - k) :
    (m.writeBytes (writeIndices p ea n) 0 v).read j = m.read j := by
  refine Memory.read_writeBytes_of_not_mem h fun i hi => ?_
  obtain ⟨k, hk, rfl⟩ := mem_writeIndices_iff.1 hi
  have hne := hj k hk
  have hin := writeIndices_ok_iff.1 hok k hk
  omega

end

/-! ## The two outcomes of a store (R180) -/

theorem storeIndex_sub (capacity : Nat) (ea : Word) (k : Int) :
    storeIndex capacity ea - k = capacity - (ea.toInt + k) :=
  Int.sub_sub _ _ _

/-- The next state of a store whose every byte is in the store meets the family's result. -/
theorem storeResult_of_writeBytes {i : Instr} {s : State} {ea v : Word} {n : Nat} (hwf : s.store.wf)
    (hok : indicesOk s.params (writeIndices s.params ea n) = true)
    (hexec : exec i s = .next { s with
      store := s.store.writeBytes (writeIndices s.params ea n) 0 v
      pc := s.pc + 4 }) : StoreResult i s ea n v := by
  refine ⟨_, hexec, ?stored, ?others, fun r => State.readReg_congr rfl r, rfl, rfl, rfl, rfl⟩
  case stored =>
    intro k hk
    rw [State.logicalByte, ← storeIndex_sub, Memory.read_writeBytes_writeIndices hwf hok v hk, toNat_byteOf]
  case others =>
    intro j hj
    exact Memory.read_writeBytes_writeIndices_of_ne hwf hok v fun k hk => storeIndex_sub _ ea k ▸ hj k hk

/-- An instruction that runs the shared store has the two outcomes of its family; what is left to show is the bounds
check. -/
theorem storeOutcomes_of_storeAt {i : Instr} {s : State} {n : Nat} {rs2 rs1 : RegIdx} {imm : BitVec 12} {ea : Word}
    {ok : Prop} (hwf : s.store.wf) (hexec : exec i s = .next (s.storeAt n rs2 rs1 imm))
    (hea : ea = s.effectiveAddress rs1 imm) (hok : indicesOk s.params (writeIndices s.params ea n) = true ↔ ok) :
    (ok → StoreResult i s ea n (s.readReg rs2)) ∧ (¬ok → EndsRun i s (.addressingFault .store ea)) := by
  rw [State.storeAt_eq_ite, ← hea] at hexec
  constructor
  · intro h
    rw [if_pos (hok.2 h)] at hexec
    exact storeResult_of_writeBytes hwf (hok.2 h) hexec
  · intro h
    rw [if_neg (mt hok.1 h)] at hexec
    exact hexec

/-- Settles O16: the three words from the rows of STORE; for each store the two outcomes of the shared operation, at
its own bounds. -/
theorem storesWriteTheirBytesOnly : Obligations.StoresWriteTheirBytesOnly := by
  refine ⟨⟨StoreRow.sb.decodesStore, StoreRow.sh.decodesStore, StoreRow.sw.decodesStore⟩, ?_⟩
  rintro s rs2 rs1 imm ea cap ⟨hwf, -, -⟩ hea rfl
  refine ⟨?sb, ?sh, ?sw⟩
  case sb =>
    exact storeOutcomes_of_storeAt hwf rfl hea (writeIndices_succ_ok_iff.trans (by rw [Nat.cast_zero, sub_zero]))
  case sh => exact storeOutcomes_of_storeAt hwf rfl hea writeIndices_succ_ok_iff
  case sw => exact storeOutcomes_of_storeAt hwf rfl hea writeIndices_succ_ok_iff

end Sys2Proof.Machine
end

section
/-! PROOFS. Conditional branches (R75, R200 to R206): the words of BRANCH, a sum with a sign-extended offset modulo
2^32, and the two successors of BEQ, BNE, BLT, BGE, BLTU and BGEU. -/

namespace Sys2Proof.Machine

/-! ## The words of BRANCH (R75) -/

/-- The rows of BRANCH: `funct3` and the instruction it selects. -/
inductive BranchRow : BitVec 3 → (RegIdx → RegIdx → BitVec 13 → Instr) → Prop where
  | beq : BranchRow 0b000 .beq
  | bne : BranchRow 0b001 .bne
  | blt : BranchRow 0b100 .blt
  | bge : BranchRow 0b101 .bge
  | bltu : BranchRow 0b110 .bltu
  | bgeu : BranchRow 0b111 .bgeu

theorem decodeBranch_of_row {f3 : BitVec 3} {mk : RegIdx → RegIdx → BitVec 13 → Instr} {w : Word}
    (hrow : BranchRow f3 mk) (h3 : fieldFunct3 w = f3) :
    decodeBranch w = .ok (mk (fieldRs1 w) (fieldRs2 w) (immB w)) := by
  cases hrow <;> simp [decodeBranch, h3]

/-- Two fragments side by side: the upper one counts from the width of the lower one on. -/
theorem toNat_append_eq_mul_add {m n : Nat} (a : BitVec m) (b : BitVec n) :
    (a ++ b).toNat = a.toNat * 2 ^ n + b.toNat := by
  rw [BitVec.toNat_append, ← Nat.shiftLeft_add_eq_or_of_lt b.isLt, Nat.shiftLeft_eq]

/-- The B-immediate is its four fragments in order, above a 0 bit (R66). -/
theorem toNat_immB (w : Word) :
    (immB w).toNat = 4096 * (w.extractLsb' 31 1).toNat + 2048 * (w.extractLsb' 7 1).toNat
      + 32 * (w.extractLsb' 25 6).toNat + 2 * (w.extractLsb' 8 4).toNat := by
  simp only [immB, toNat_append_eq_mul_add, BitVec.toNat_zero]
  ring

/-- The dispatch by opcode, then the row that `funct3` selects. -/
theorem BranchRow.decodesBranch {f3 : BitVec 3} {mk : RegIdx → RegIdx → BitVec 13 → Instr} (hrow : BranchRow f3 mk) :
    DecodesBranch f3 mk :=
  fun w hop h3 => ⟨immB w, toNat_immB w, (decode_of_opcode_branch hop).trans (decodeBranch_of_row hrow h3)⟩

/-! ## The two successors (R26, R200) -/

/-- A sum with a sign-extended operand wraps modulo 2^32 (D15). -/
theorem toNat_add_signExtend_word (a : Word) {n : Nat} (v : BitVec n) :
    ((a + v.signExtend 32).toNat : Int) = (a.toNat + v.toInt) % 2 ^ 32 := by
  have hv : ((v.signExtend 32).toNat : Int) = v.toInt % 2 ^ 32 := by
    rw [BitVec.signExtend, BitVec.toNat_ofInt]
    exact Int.toNat_of_nonneg (Int.emod_nonneg _ (by decide))
  rw [BitVec.toNat_add]
  omega

theorem State.toNat_branchTarget (s : State) (offset : BitVec 13) :
    ((s.branchTarget offset).toNat : Int) = (s.pc.toNat + offset.toInt) % 2 ^ 32 :=
  toNat_add_signExtend_word s.pc offset

theorem State.toNat_nextPc (s : State) : s.nextPc.toNat = (s.pc.toNat + 4) % 2 ^ 32 :=
  BitVec.toNat_add s.pc 4

section
variable {s : State} {cond : Word → Word → Bool} {rs1 rs2 : RegIdx} {offset : BitVec 13}

theorem State.branchIf_of_taken (h : cond (s.readReg rs1) (s.readReg rs2) = true) :
    s.branchIf cond rs1 rs2 offset = s.setPc (s.branchTarget offset) := by
  rw [State.branchIf, if_pos h]

theorem State.branchIf_of_not_taken (h : ¬cond (s.readReg rs1) (s.readReg rs2) = true) :
    s.branchIf cond rs1 rs2 offset = s.setPc s.nextPc := by
  rw [State.branchIf, if_neg h]

/-- An instruction that runs the shared branch has the result of its family; what is left to show is that its test
decides the comparison. -/
theorem branchResult_of_branchIf {i : Instr} {taken : Prop} (hexec : exec i s = .next (s.branchIf cond rs1 rs2 offset))
    (hcond : cond (s.readReg rs1) (s.readReg rs2) = true ↔ taken) : BranchResult i s taken offset.toInt := by
  refine ⟨_, hexec, rfl, fun h => ?taken, fun h => ?notTaken⟩
  case taken => rw [State.branchIf_of_taken (hcond.2 h), State.setPc_pc, State.toNat_branchTarget]
  case notTaken => rw [State.branchIf_of_not_taken (mt hcond.1 h), State.setPc_pc, State.toNat_nextPc]

end

/-! ## The six comparisons (R201 to R206) -/

theorem not_ltSigned_iff {a b : Word} : (!ltSigned a b) = true ↔ a.toInt ≥ b.toInt := by
  rw [Bool.not_eq_true', ← Bool.not_eq_true, ltSigned_iff, not_lt]

theorem not_ltUnsigned_iff {a b : Word} : (!ltUnsigned a b) = true ↔ a.toNat ≥ b.toNat := by
  rw [Bool.not_eq_true', ← Bool.not_eq_true, ltUnsigned_iff, not_lt]

/-- Settles O20: for each of the six, its row of BRANCH, the frame and the two successors of the shared branch, and the
comparison its test decides. -/
theorem conditionalBranchResults : Obligations.ConditionalBranchResults := by
  refine ⟨⟨BranchRow.beq.decodesBranch, fun s rs1 rs2 offset => ?beq⟩,
    ⟨BranchRow.bne.decodesBranch, fun s rs1 rs2 offset => ?bne⟩,
    ⟨BranchRow.blt.decodesBranch, fun s rs1 rs2 offset => ?blt⟩,
    ⟨BranchRow.bge.decodesBranch, fun s rs1 rs2 offset => ?bge⟩,
    ⟨BranchRow.bltu.decodesBranch, fun s rs1 rs2 offset => ?bltu⟩,
    ⟨BranchRow.bgeu.decodesBranch, fun s rs1 rs2 offset => ?bgeu⟩⟩
  case beq => exact branchResult_of_branchIf rfl beq_iff_eq
  case bne => exact branchResult_of_branchIf rfl bne_iff_ne
  case blt => exact branchResult_of_branchIf rfl ltSigned_iff
  case bge => exact branchResult_of_branchIf rfl not_ltSigned_iff
  case bltu => exact branchResult_of_branchIf rfl ltUnsigned_iff
  case bgeu => exact branchResult_of_branchIf rfl not_ltUnsigned_iff

end Sys2Proof.Machine
end

section
/-! PROOFS. LUI (R76, R220): its words by the opcode alone, and the U-immediate as a number. -/

namespace Sys2Proof.Machine

theorem decode_of_opcode_lui {w : Word} (h : fieldOpcode w = 0b0110111) :
    decode w = .ok (.lui (fieldRd w) (immU w)) := by
  simp [decode, h]

/-- The 20-bit fragment stands above twelve zero bits, so nothing of it is lost (R67). -/
theorem toNat_upperWord (imm20 : BitVec 20) : (upperWord imm20).toNat = imm20.toNat * 2 ^ 12 := by
  rw [upperWord, toNat_append_eq_mul_add, BitVec.toNat_zero, add_zero]

/-- Settles O21: the words by their opcode; the frame of the shared register write, and the U-immediate's value. -/
theorem luiResult : Obligations.LuiResult := by
  refine ⟨fun w hop => ?words, fun s rd imm20 => ?result⟩
  case words => exact decode_of_opcode_lui hop
  case result => exact registerResult_of_writeAndAdvance rfl (toNat_upperWord imm20)

end Sys2Proof.Machine
end

section
/-! PROOFS. ECALL (R78, R260 to R262): SYSTEM is the one family that answers it, and there for one word; the outcome of
an environment call by its selector. -/

namespace Sys2Proof.Machine

/-! ## The word of ECALL (R78) -/

theorem decodeSystem_eq_ecall_iff {w : Word} : decodeSystem w = .ok .ecall ↔ w = 0x00000073 := by
  rw [decodeSystem, ite_eq_left_iff]
  simp only [reduceCtorEq, imp_false, not_not]

/-- No family but SYSTEM answers ECALL: each of the others answers instructions of its own, or an error. -/
theorem opcode_of_decode_ecall {w : Word} (h : decode w = .ok .ecall) : fieldOpcode w = 0b1110011 := by
  by_contra hop
  simp only [decode, if_neg hop, decodeOp, decodeOpImm, decodeLoad, decodeStore, decodeBranch, decodeJalr, ite_eq_iff,
    Except.ok.injEq, reduceCtorEq, and_false, or_false] at h

theorem decode_eq_ecall_iff {w : Word} : decode w = .ok .ecall ↔ w = 0x00000073 := by
  constructor
  · intro h
    rw [decode_of_opcode_system (opcode_of_decode_ecall h)] at h
    exact decodeSystem_eq_ecall_iff.1 h
  · intro hw
    have hop : fieldOpcode w = 0b1110011 := by rw [hw]; decide
    rw [decode_of_opcode_system hop]
    exact decodeSystem_eq_ecall_iff.2 hw

/-! ## The outcome by selector (R260, R261) -/

theorem syscallOutcome_of_exit {selector code : Word} (h : selector.toNat = 10) :
    syscallOutcome selector code = .halted 0 :=
  if_pos (BitVec.eq_of_toNat_eq h)

theorem syscallOutcome_of_exitCode {selector code : Word} (h : selector.toNat = 17) :
    syscallOutcome selector code = .halted code := by
  obtain rfl : selector = Config.sysExitCode := BitVec.eq_of_toNat_eq h
  rfl

theorem syscallOutcome_of_unsupported {selector code : Word} (h10 : selector.toNat ≠ 10) (h17 : selector.toNat ≠ 17) :
    syscallOutcome selector code = .unsupportedSyscall selector := by
  have hexit : selector ≠ Config.sysExit := fun h => h10 (congrArg BitVec.toNat h)
  have hcode : selector ≠ Config.sysExitCode := fun h => h17 (congrArg BitVec.toNat h)
  rw [syscallOutcome, if_neg hexit, if_neg hcode]

/-- ECALL ends the run with the outcome of the selector in `x10` and the code in `x11`, and writes nothing else. -/
theorem endsRun_ecall {s : State} {outcome : RunStatus}
    (h : syscallOutcome (s.readReg 10) (s.readReg 11) = outcome) : EndsRun .ecall s outcome := by
  subst h
  rfl

/-- Settles O24: the one word of SYSTEM, and the outcome of each of the three cases of the selector. -/
theorem ecallOutcomes : Obligations.EcallOutcomes := by
  refine ⟨fun w => ?word, fun s => ⟨fun h10 => ?exit, fun h17 => ?exitCode, fun h10 h17 => ?unsupported⟩⟩
  case word => exact decode_eq_ecall_iff
  case exit => exact endsRun_ecall (syscallOutcome_of_exit h10)
  case exitCode => exact endsRun_ecall (syscallOutcome_of_exitCode h17)
  case unsupported => exact endsRun_ecall (syscallOutcome_of_unsupported h10 h17)

end Sys2Proof.Machine
end

section
/-! PROOFS. Decode and encode are inverse (R61 to R79): one relation lays every instruction out in its word, family by
family; the encoder answers such a word, and the decoder its instruction, with an error for any other word. -/

namespace Sys2Proof

open Sys2Proof.Machine

/-! ## The layout of an instruction (R61, R62, R70 to R78) -/

/-- The rows of OP-IMM that shift: bits `31:25`, `funct3` and the instruction they select (R72). -/
inductive ShiftRow : BitVec 7 → BitVec 3 → (RegIdx → RegIdx → BitVec 5 → Instr) → Prop where
  | slli : ShiftRow 0b0000000 0b001 .slli
  | srli : ShiftRow 0b0000000 0b101 .srli
  | srai : ShiftRow 0b0100000 0b101 .srai

/-- The instruction and its word: the row of its family, and the operands in the family's format. -/
inductive Layout : Instr → Word → Prop where
  | op {f7 f3 mk} (hrow : OpRow f7 f3 mk) (rd rs1 rs2 : RegIdx) :
      Layout (mk rd rs1 rs2) (encodeR f7 rs2 rs1 f3 rd 0b0110011)
  | opImm {f3 mk} (hrow : OpImmRow f3 mk) (rd rs1 : RegIdx) (imm : BitVec 12) :
      Layout (mk rd rs1 imm) (encodeI imm rs1 f3 rd 0b0010011)
  | shift {f7 f3 mk} (hrow : ShiftRow f7 f3 mk) (rd rs1 : RegIdx) (shamt : BitVec 5) :
      Layout (mk rd rs1 shamt) (encodeR f7 shamt rs1 f3 rd 0b0010011)
  | load {f3 mk} (hrow : LoadRow f3 mk) (rd rs1 : RegIdx) (imm : BitVec 12) :
      Layout (mk rd rs1 imm) (encodeI imm rs1 f3 rd 0b0000011)
  | store {f3 mk} (hrow : StoreRow f3 mk) (rs2 rs1 : RegIdx) (imm : BitVec 12) :
      Layout (mk rs2 rs1 imm) (encodeS imm rs2 rs1 f3 0b0100011)
  | branch {f3 mk} (hrow : BranchRow f3 mk) (rs1 rs2 : RegIdx) (offset : BitVec 13)
      (heven : branchOffsetOk offset = true) : Layout (mk rs1 rs2 offset) (encodeB offset rs2 rs1 f3 0b1100011)
  | lui (rd : RegIdx) (imm20 : BitVec 20) : Layout (.lui rd imm20) (encodeU imm20 rd 0b0110111)
  | auipc (rd : RegIdx) (imm20 : BitVec 20) : Layout (.auipc rd imm20) (encodeU imm20 rd 0b0010111)
  | jal (rd : RegIdx) (offset : BitVec 21) (heven : jumpOffsetOk offset = true) :
      Layout (.jal rd offset) (encodeJ offset rd 0b1101111)
  | jalr (rd rs1 : RegIdx) (imm : BitVec 12) : Layout (.jalr rd rs1 imm) (encodeI imm rs1 0b000 rd 0b1100111)
  | ecall : Layout .ecall 0x00000073

/-! ## The encoder lays instructions out -/

theorem layout_encode {i : Instr} (h : i.wellFormed = true) : Layout i (encode i) := by
  cases i with
  | add rd rs1 rs2 | sub rd rs1 rs2 | sll rd rs1 rs2 | slt rd rs1 rs2 | sltu rd rs1 rs2 | xor rd rs1 rs2
  | srl rd rs1 rs2 | sra rd rs1 rs2 | or rd rs1 rs2 | and rd rs1 rs2 | mul rd rs1 rs2 | mulh rd rs1 rs2
  | mulhsu rd rs1 rs2 | mulhu rd rs1 rs2 | div rd rs1 rs2 | divu rd rs1 rs2 | rem rd rs1 rs2 | remu rd rs1 rs2 =>
    exact .op (by constructor) rd rs1 rs2
  | addi rd rs1 imm | slti rd rs1 imm | sltiu rd rs1 imm | xori rd rs1 imm | ori rd rs1 imm | andi rd rs1 imm =>
    exact .opImm (by constructor) rd rs1 imm
  | slli rd rs1 shamt | srli rd rs1 shamt | srai rd rs1 shamt => exact .shift (by constructor) rd rs1 shamt
  | lb rd rs1 imm | lh rd rs1 imm | lw rd rs1 imm | lbu rd rs1 imm | lhu rd rs1 imm =>
    exact .load (by constructor) rd rs1 imm
  | sb rs2 rs1 imm | sh rs2 rs1 imm | sw rs2 rs1 imm => exact .store (by constructor) rs2 rs1 imm
  | beq rs1 rs2 offset | bne rs1 rs2 offset | blt rs1 rs2 offset | bge rs1 rs2 offset | bltu rs1 rs2 offset
  | bgeu rs1 rs2 offset => exact .branch (by constructor) rs1 rs2 offset h
  | lui rd imm20 => exact .lui rd imm20
  | auipc rd imm20 => exact .auipc rd imm20
  | jal rd offset => exact .jal rd offset h
  | jalr rd rs1 imm => exact .jalr rd rs1 imm
  | ecall => exact .ecall

/-- An instruction has at most one layout, and only a well-formed one has any. -/
theorem Layout.encode_eq {i : Instr} {w : Word} (h : Layout i w) : i.wellFormed = true ∧ encode i = w := by
  cases h with
  | op hrow | opImm hrow | shift hrow | load hrow | store hrow => cases hrow <;> exact ⟨rfl, rfl⟩
  | branch hrow _ _ _ heven => cases hrow <;> exact ⟨heven, rfl⟩
  | jal _ _ heven => exact ⟨heven, rfl⟩
  | lui | auipc | jalr => exact ⟨rfl, rfl⟩
  | ecall => decide

/-! ## The decoder reads a laid-out word back -/

theorem decodeOpImm_of_shiftRow {f7 : BitVec 7} {f3 : BitVec 3} {mk : RegIdx → RegIdx → BitVec 5 → Instr} {w : Word}
    (hrow : ShiftRow f7 f3 mk) (h7 : fieldFunct7 w = f7) (h3 : fieldFunct3 w = f3) :
    decodeOpImm w = .ok (mk (fieldRd w) (fieldRs1 w) (fieldRs2 w)) := by
  cases hrow <;> simp [decodeOpImm, h7, h3]

/-- The dispatch by opcode, then the row that the upper bits and `funct3` select. -/
theorem ShiftRow.decodesShift {f7 : BitVec 7} {f3 : BitVec 3} {mk : RegIdx → RegIdx → BitVec 5 → Instr}
    (hrow : ShiftRow f7 f3 mk) : DecodesShift f7 f3 mk :=
  fun _ hop h3 h7 => (decode_of_opcode_opImm hop).trans (decodeOpImm_of_shiftRow hrow h7 h3)

theorem decode_of_opcode_auipc {w : Word} (h : fieldOpcode w = 0b0010111) :
    decode w = .ok (.auipc (fieldRd w) (immU w)) := by
  simp [decode, h]

theorem decode_of_opcode_jal {w : Word} (h : fieldOpcode w = 0b1101111) :
    decode w = .ok (.jal (fieldRd w) (immJ w)) := by
  simp [decode, h]

theorem decode_of_jalr {w : Word} (hop : fieldOpcode w = 0b1100111) (h3 : fieldFunct3 w = 0b000) :
    decode w = .ok (.jalr (fieldRd w) (fieldRs1 w) (immI w)) :=
  (decode_of_opcode_jalr hop).trans (if_pos h3)

theorem Layout.decode_eq {i : Instr} {w : Word} (h : Layout i w) : decode w = .ok i := by
  cases h with
  | op hrow =>
    rw [decode_of_opcode_op (by simp), decodeOp_of_row hrow (by simp) (by simp)]
    simp
  | opImm hrow =>
    rw [decode_of_opcode_opImm (by simp), decodeOpImm_of_row hrow (by simp)]
    simp
  | shift hrow =>
    rw [decode_of_opcode_opImm (by simp), decodeOpImm_of_shiftRow hrow (by simp) (by simp)]
    simp
  | load hrow =>
    rw [decode_of_opcode_load (by simp), decodeLoad_of_row hrow (by simp)]
    simp
  | store hrow =>
    rw [decode_of_opcode_store (by simp), decodeStore_of_row hrow (by simp)]
    simp
  | branch hrow _ _ _ heven =>
    rw [decode_of_opcode_branch (by simp), decodeBranch_of_row hrow (by simp), immB_encodeB _ heven]
    simp
  | lui =>
    rw [decode_of_opcode_lui (by simp)]
    simp
  | auipc =>
    rw [decode_of_opcode_auipc (by simp)]
    simp
  | jal _ _ heven =>
    rw [decode_of_opcode_jal (by simp), immJ_encodeJ _ heven]
    simp
  | jalr =>
    rw [decode_of_jalr (by simp) (by simp)]
    simp
  | ecall => exact decode_eq_ecall_iff.2 rfl

/-! ## Every other word is an error

Family by family, over the eight values of `funct3`: a row of the family, or the family's error. -/

theorem funct3_cases : ∀ f : BitVec 3,
    f = 0b000 ∨ f = 0b001 ∨ f = 0b010 ∨ f = 0b011 ∨ f = 0b100 ∨ f = 0b101 ∨ f = 0b110 ∨ f = 0b111 := by
  decide

/-- Under `funct7` 0 and 1 every `funct3` is listed. -/
theorem exists_opRow {f7 : BitVec 7} (h : f7 = 0b0000000 ∨ f7 = 0b0000001) (f3 : BitVec 3) : ∃ mk, OpRow f7 f3 mk := by
  rcases h with rfl | rfl <;> rcases funct3_cases f3 with rfl | rfl | rfl | rfl | rfl | rfl | rfl | rfl <;>
    exact ⟨_, by constructor⟩

variable (w : Word)

theorem opRow_or_error : (∃ mk, OpRow (fieldFunct7 w) (fieldFunct3 w) mk) ∨ ∃ e, decodeOp w = .error e := by
  by_cases h01 : fieldFunct7 w = 0b0000000 ∨ fieldFunct7 w = 0b0000001
  · exact .inl (exists_opRow h01 _)
  obtain ⟨h0, h1⟩ := not_or.1 h01
  by_cases h32 : fieldFunct7 w = 0b0100000
  · by_cases h3 : fieldFunct3 w = 0b000
    · exact .inl (h32 ▸ h3 ▸ ⟨_, .sub⟩)
    by_cases h3' : fieldFunct3 w = 0b101
    · exact .inl (h32 ▸ h3' ▸ ⟨_, .sra⟩)
    exact .inr ⟨_, decodeOp_of_funct3_unlisted h32 h3 h3'⟩
  · exact .inr ⟨_, decodeOp_of_funct7_unlisted h0 h32 h1⟩

theorem opImmRow_or_shiftRow_or_error :
    (∃ mk, OpImmRow (fieldFunct3 w) mk) ∨ (∃ mk, ShiftRow (fieldFunct7 w) (fieldFunct3 w) mk) ∨
      ∃ e, decodeOpImm w = .error e := by
  rcases funct3_cases (fieldFunct3 w) with h3 | h3 | h3 | h3 | h3 | h3 | h3 | h3
  · exact .inl (h3 ▸ ⟨_, .addi⟩)
  · by_cases h0 : fieldFunct7 w = 0b0000000
    · exact .inr (.inl (h0 ▸ h3 ▸ ⟨_, .slli⟩))
    · exact .inr (.inr ⟨_, decodeOpImm_of_leftShift_unlisted h3 h0⟩)
  · exact .inl (h3 ▸ ⟨_, .slti⟩)
  · exact .inl (h3 ▸ ⟨_, .sltiu⟩)
  · exact .inl (h3 ▸ ⟨_, .xori⟩)
  · by_cases h0 : fieldFunct7 w = 0b0000000
    · exact .inr (.inl (h0 ▸ h3 ▸ ⟨_, .srli⟩))
    by_cases h32 : fieldFunct7 w = 0b0100000
    · exact .inr (.inl (h32 ▸ h3 ▸ ⟨_, .srai⟩))
    · exact .inr (.inr ⟨_, decodeOpImm_of_rightShift_unlisted h3 h0 h32⟩)
  · exact .inl (h3 ▸ ⟨_, .ori⟩)
  · exact .inl (h3 ▸ ⟨_, .andi⟩)

theorem loadRow_or_error : (∃ mk, LoadRow (fieldFunct3 w) mk) ∨ ∃ e, decodeLoad w = .error e := by
  rcases funct3_cases (fieldFunct3 w) with h3 | h3 | h3 | h3 | h3 | h3 | h3 | h3
  · exact .inl (h3 ▸ ⟨_, .lb⟩)
  · exact .inl (h3 ▸ ⟨_, .lh⟩)
  · exact .inl (h3 ▸ ⟨_, .lw⟩)
  · exact .inr ⟨_, decodeLoad_of_funct3_unlisted (by simp [h3])⟩
  · exact .inl (h3 ▸ ⟨_, .lbu⟩)
  · exact .inl (h3 ▸ ⟨_, .lhu⟩)
  · exact .inr ⟨_, decodeLoad_of_funct3_unlisted (by simp [h3])⟩
  · exact .inr ⟨_, decodeLoad_of_funct3_unlisted (by simp [h3])⟩

theorem storeRow_or_error : (∃ mk, StoreRow (fieldFunct3 w) mk) ∨ ∃ e, decodeStore w = .error e := by
  by_cases hlow : 3 ≤ (fieldFunct3 w).toNat
  · exact .inr ⟨_, decodeStore_of_funct3_unlisted hlow⟩
  have hlisted : ∀ f : BitVec 3, ¬3 ≤ f.toNat → f = 0b000 ∨ f = 0b001 ∨ f = 0b010 := by decide
  rcases hlisted _ hlow with h3 | h3 | h3
  · exact .inl (h3 ▸ ⟨_, .sb⟩)
  · exact .inl (h3 ▸ ⟨_, .sh⟩)
  · exact .inl (h3 ▸ ⟨_, .sw⟩)

theorem branchRow_or_error : (∃ mk, BranchRow (fieldFunct3 w) mk) ∨ ∃ e, decodeBranch w = .error e := by
  rcases funct3_cases (fieldFunct3 w) with h3 | h3 | h3 | h3 | h3 | h3 | h3 | h3
  · exact .inl (h3 ▸ ⟨_, .beq⟩)
  · exact .inl (h3 ▸ ⟨_, .bne⟩)
  · exact .inr ⟨_, decodeBranch_of_funct3_unlisted (by simp [h3])⟩
  · exact .inr ⟨_, decodeBranch_of_funct3_unlisted (by simp [h3])⟩
  · exact .inl (h3 ▸ ⟨_, .blt⟩)
  · exact .inl (h3 ▸ ⟨_, .bge⟩)
  · exact .inl (h3 ▸ ⟨_, .bltu⟩)
  · exact .inl (h3 ▸ ⟨_, .bgeu⟩)

section
variable {w}

/-! A word whose fields select a row is laid out as that row's instruction: it is its fields. -/

theorem layout_of_opRow {mk : RegIdx → RegIdx → RegIdx → Instr} (hop : fieldOpcode w = 0b0110011)
    (hrow : OpRow (fieldFunct7 w) (fieldFunct3 w) mk) : Layout (mk (fieldRd w) (fieldRs1 w) (fieldRs2 w)) w := by
  have hlay := Layout.op hrow (fieldRd w) (fieldRs1 w) (fieldRs2 w)
  rwa [← hop, encodeR_fields] at hlay

theorem layout_of_opImmRow {mk : RegIdx → RegIdx → BitVec 12 → Instr} (hop : fieldOpcode w = 0b0010011)
    (hrow : OpImmRow (fieldFunct3 w) mk) : Layout (mk (fieldRd w) (fieldRs1 w) (immI w)) w := by
  have hlay := Layout.opImm hrow (fieldRd w) (fieldRs1 w) (immI w)
  rwa [← hop, encodeI_fields] at hlay

theorem layout_of_shiftRow {mk : RegIdx → RegIdx → BitVec 5 → Instr} (hop : fieldOpcode w = 0b0010011)
    (hrow : ShiftRow (fieldFunct7 w) (fieldFunct3 w) mk) : Layout (mk (fieldRd w) (fieldRs1 w) (fieldRs2 w)) w := by
  have hlay := Layout.shift hrow (fieldRd w) (fieldRs1 w) (fieldRs2 w)
  rwa [← hop, encodeR_fields] at hlay

theorem layout_of_loadRow {mk : RegIdx → RegIdx → BitVec 12 → Instr} (hop : fieldOpcode w = 0b0000011)
    (hrow : LoadRow (fieldFunct3 w) mk) : Layout (mk (fieldRd w) (fieldRs1 w) (immI w)) w := by
  have hlay := Layout.load hrow (fieldRd w) (fieldRs1 w) (immI w)
  rwa [← hop, encodeI_fields] at hlay

theorem layout_of_storeRow {mk : RegIdx → RegIdx → BitVec 12 → Instr} (hop : fieldOpcode w = 0b0100011)
    (hrow : StoreRow (fieldFunct3 w) mk) : Layout (mk (fieldRs2 w) (fieldRs1 w) (immS w)) w := by
  have hlay := Layout.store hrow (fieldRs2 w) (fieldRs1 w) (immS w)
  rwa [← hop, encodeS_fields] at hlay

theorem layout_of_branchRow {mk : RegIdx → RegIdx → BitVec 13 → Instr} (hop : fieldOpcode w = 0b1100011)
    (hrow : BranchRow (fieldFunct3 w) mk) : Layout (mk (fieldRs1 w) (fieldRs2 w) (immB w)) w := by
  have hlay := Layout.branch hrow (fieldRs1 w) (fieldRs2 w) (immB w) (branchOffsetOk_immB w)
  rwa [← hop, encodeB_fields] at hlay

theorem layout_of_opcode_lui (hop : fieldOpcode w = 0b0110111) : Layout (.lui (fieldRd w) (immU w)) w := by
  have hlay := Layout.lui (fieldRd w) (immU w)
  rwa [← hop, encodeU_fields] at hlay

theorem layout_of_opcode_auipc (hop : fieldOpcode w = 0b0010111) : Layout (.auipc (fieldRd w) (immU w)) w := by
  have hlay := Layout.auipc (fieldRd w) (immU w)
  rwa [← hop, encodeU_fields] at hlay

theorem layout_of_opcode_jal (hop : fieldOpcode w = 0b1101111) : Layout (.jal (fieldRd w) (immJ w)) w := by
  have hlay := Layout.jal (fieldRd w) (immJ w) (jumpOffsetOk_immJ w)
  rwa [← hop, encodeJ_fields] at hlay

theorem layout_of_jalr (hop : fieldOpcode w = 0b1100111) (h3 : fieldFunct3 w = 0b000) :
    Layout (.jalr (fieldRd w) (fieldRs1 w) (immI w)) w := by
  have hlay := Layout.jalr (fieldRd w) (fieldRs1 w) (immI w)
  rwa [← hop, ← h3, encodeI_fields] at hlay

end

/-- Every word is the layout of some instruction, or an error: its opcode's family settles which. -/
theorem layout_or_error : (∃ i, Layout i w) ∨ ∃ e, decode w = .error e := by
  by_cases hmem : fieldOpcode w ∈ listedOpcodes
  case neg => exact .inr ⟨_, decode_of_opcode_unlisted hmem⟩
  simp only [listedOpcodes, List.mem_cons, List.not_mem_nil, or_false] at hmem
  rcases hmem with hop | hop | hop | hop | hop | hop | hop | hop | hop | hop
  · rcases opRow_or_error w with ⟨mk, hrow⟩ | ⟨e, he⟩
    · exact .inl ⟨_, layout_of_opRow hop hrow⟩
    · exact .inr ⟨e, (decode_of_opcode_op hop).trans he⟩
  · rcases opImmRow_or_shiftRow_or_error w with ⟨mk, hrow⟩ | ⟨mk, hrow⟩ | ⟨e, he⟩
    · exact .inl ⟨_, layout_of_opImmRow hop hrow⟩
    · exact .inl ⟨_, layout_of_shiftRow hop hrow⟩
    · exact .inr ⟨e, (decode_of_opcode_opImm hop).trans he⟩
  · rcases loadRow_or_error w with ⟨mk, hrow⟩ | ⟨e, he⟩
    · exact .inl ⟨_, layout_of_loadRow hop hrow⟩
    · exact .inr ⟨e, (decode_of_opcode_load hop).trans he⟩
  · rcases storeRow_or_error w with ⟨mk, hrow⟩ | ⟨e, he⟩
    · exact .inl ⟨_, layout_of_storeRow hop hrow⟩
    · exact .inr ⟨e, (decode_of_opcode_store hop).trans he⟩
  · rcases branchRow_or_error w with ⟨mk, hrow⟩ | ⟨e, he⟩
    · exact .inl ⟨_, layout_of_branchRow hop hrow⟩
    · exact .inr ⟨e, (decode_of_opcode_branch hop).trans he⟩
  · exact .inl ⟨_, layout_of_opcode_lui hop⟩
  · exact .inl ⟨_, layout_of_opcode_auipc hop⟩
  · exact .inl ⟨_, layout_of_opcode_jal hop⟩
  · by_cases h3 : fieldFunct3 w = 0b000
    · exact .inl ⟨_, layout_of_jalr hop h3⟩
    · exact .inr ⟨_, (decode_of_opcode_jalr hop).trans (decodeJalr_of_funct3_unlisted h3)⟩
  · by_cases hw : w = 0x00000073
    · exact .inl (hw ▸ ⟨_, .ecall⟩)
    · exact .inr ⟨_, (decode_of_opcode_system hop).trans (decodeSystem_of_ne_ecall hw)⟩

theorem decode_eq_ok_iff_layout {w : Word} {i : Instr} : decode w = .ok i ↔ Layout i w := by
  refine ⟨fun h => ?_, Layout.decode_eq⟩
  rcases layout_or_error w with ⟨j, hlay⟩ | ⟨e, he⟩
  · obtain rfl : j = i := Except.ok.inj (hlay.decode_eq.symm.trans h)
    exact hlay
  · cases he.symm.trans h

end Sys2Proof

namespace Sys2Proof.Machine

/-- Settles O1: the encoder lays a well-formed instruction out, and the decoder reads a layout back. -/
theorem decodeOfEncodeGivesTheInstruction : Obligations.DecodeOfEncodeGivesTheInstruction :=
  fun _ h => (layout_encode h).decode_eq

/-- Settles O2: a word that decodes is laid out as its instruction, and an instruction has one layout. -/
theorem encodeOfDecodeGivesTheWord : Obligations.EncodeOfDecodeGivesTheWord :=
  fun _ _ h => (decode_eq_ok_iff_layout.1 h).encode_eq

end Sys2Proof.Machine
end

section
/-! PROOFS. Decode and the opcode table (R2, R70 to R78): the mask of a row keeps the fields its family looks at, so
that a word matches a row exactly if its fields select it. -/

namespace Sys2Proof

open Sys2Proof.Machine

/-! ## Every instruction has a row, and its word matches it -/

/-- The laws of `Laws/PerInstr`, one per constructor, as one statement. -/
theorem encodesItsRow (i : Instr) : Laws.EncodesItsRow.Statement i := by
  cases i with
  | add rd rs1 rs2 => exact Laws.EncodesItsRow.add rd rs1 rs2
  | sub rd rs1 rs2 => exact Laws.EncodesItsRow.sub rd rs1 rs2
  | sll rd rs1 rs2 => exact Laws.EncodesItsRow.sll rd rs1 rs2
  | slt rd rs1 rs2 => exact Laws.EncodesItsRow.slt rd rs1 rs2
  | sltu rd rs1 rs2 => exact Laws.EncodesItsRow.sltu rd rs1 rs2
  | xor rd rs1 rs2 => exact Laws.EncodesItsRow.xor rd rs1 rs2
  | srl rd rs1 rs2 => exact Laws.EncodesItsRow.srl rd rs1 rs2
  | sra rd rs1 rs2 => exact Laws.EncodesItsRow.sra rd rs1 rs2
  | or rd rs1 rs2 => exact Laws.EncodesItsRow.or rd rs1 rs2
  | and rd rs1 rs2 => exact Laws.EncodesItsRow.and rd rs1 rs2
  | mul rd rs1 rs2 => exact Laws.EncodesItsRow.mul rd rs1 rs2
  | mulh rd rs1 rs2 => exact Laws.EncodesItsRow.mulh rd rs1 rs2
  | mulhsu rd rs1 rs2 => exact Laws.EncodesItsRow.mulhsu rd rs1 rs2
  | mulhu rd rs1 rs2 => exact Laws.EncodesItsRow.mulhu rd rs1 rs2
  | div rd rs1 rs2 => exact Laws.EncodesItsRow.div rd rs1 rs2
  | divu rd rs1 rs2 => exact Laws.EncodesItsRow.divu rd rs1 rs2
  | rem rd rs1 rs2 => exact Laws.EncodesItsRow.rem rd rs1 rs2
  | remu rd rs1 rs2 => exact Laws.EncodesItsRow.remu rd rs1 rs2
  | addi rd rs1 imm => exact Laws.EncodesItsRow.addi rd rs1 imm
  | slti rd rs1 imm => exact Laws.EncodesItsRow.slti rd rs1 imm
  | sltiu rd rs1 imm => exact Laws.EncodesItsRow.sltiu rd rs1 imm
  | xori rd rs1 imm => exact Laws.EncodesItsRow.xori rd rs1 imm
  | ori rd rs1 imm => exact Laws.EncodesItsRow.ori rd rs1 imm
  | andi rd rs1 imm => exact Laws.EncodesItsRow.andi rd rs1 imm
  | slli rd rs1 shamt => exact Laws.EncodesItsRow.slli rd rs1 shamt
  | srli rd rs1 shamt => exact Laws.EncodesItsRow.srli rd rs1 shamt
  | srai rd rs1 shamt => exact Laws.EncodesItsRow.srai rd rs1 shamt
  | lb rd rs1 imm => exact Laws.EncodesItsRow.lb rd rs1 imm
  | lh rd rs1 imm => exact Laws.EncodesItsRow.lh rd rs1 imm
  | lw rd rs1 imm => exact Laws.EncodesItsRow.lw rd rs1 imm
  | lbu rd rs1 imm => exact Laws.EncodesItsRow.lbu rd rs1 imm
  | lhu rd rs1 imm => exact Laws.EncodesItsRow.lhu rd rs1 imm
  | sb rs2 rs1 imm => exact Laws.EncodesItsRow.sb rs2 rs1 imm
  | sh rs2 rs1 imm => exact Laws.EncodesItsRow.sh rs2 rs1 imm
  | sw rs2 rs1 imm => exact Laws.EncodesItsRow.sw rs2 rs1 imm
  | beq rs1 rs2 offset => exact Laws.EncodesItsRow.beq rs1 rs2 offset
  | bne rs1 rs2 offset => exact Laws.EncodesItsRow.bne rs1 rs2 offset
  | blt rs1 rs2 offset => exact Laws.EncodesItsRow.blt rs1 rs2 offset
  | bge rs1 rs2 offset => exact Laws.EncodesItsRow.bge rs1 rs2 offset
  | bltu rs1 rs2 offset => exact Laws.EncodesItsRow.bltu rs1 rs2 offset
  | bgeu rs1 rs2 offset => exact Laws.EncodesItsRow.bgeu rs1 rs2 offset
  | lui rd imm20 => exact Laws.EncodesItsRow.lui rd imm20
  | auipc rd imm20 => exact Laws.EncodesItsRow.auipc rd imm20
  | jal rd offset => exact Laws.EncodesItsRow.jal rd offset
  | jalr rd rs1 imm => exact Laws.EncodesItsRow.jalr rd rs1 imm
  | ecall => exact Laws.EncodesItsRow.ecall

theorem exists_row_of_mnemonic (i : Instr) : ∃ row ∈ opcodeTable, row.mnemonic = i.mnemonic := by
  cases i <;> simp only [Instr.mnemonic] <;> decide

/-! ## A word that matches a row decodes to the row's instruction -/

/-- The bits that tell an instruction from the others of its family: the opcode; with `funct3` in the I, S and B
formats; with `funct7` too in the R format; all of them for ECALL. -/
def familyMask (w : Word) : Word :=
  if fieldOpcode w ∈ [0b0110111, 0b0010111, 0b1101111] then 0x0000007f
  else if fieldOpcode w = 0b1110011 then 0xffffffff
  else if fieldOpcode w = 0b0110011 ∨ fieldOpcode w = 0b0010011 ∧ fieldFunct3 w ∈ [0b001, 0b101] then 0xfe00707f
  else 0x0000707f

theorem value_mask_of_mem_opcodeTable :
    ∀ row ∈ opcodeTable,
      (decode row.value).map Instr.mnemonic = .ok row.mnemonic ∧ row.mask = familyMask row.value := by
  decide

theorem funct3_of_opImmRow {f3 : BitVec 3} {mk : RegIdx → RegIdx → BitVec 12 → Instr} (hrow : OpImmRow f3 mk) :
    ¬(f3 = 0b001#3 ∨ f3 = 0b101#3) := by
  cases hrow <;> decide

theorem funct3_of_shiftRow {f7 : BitVec 7} {f3 : BitVec 3} {mk : RegIdx → RegIdx → BitVec 5 → Instr}
    (hrow : ShiftRow f7 f3 mk) : f3 = 0b001#3 ∨ f3 = 0b101#3 := by
  cases hrow <;> decide

section
variable {w v : Word}

theorem fields_of_and_maskR (h : w &&& 0xfe00707f = v) :
    fieldOpcode w = fieldOpcode v ∧ fieldFunct3 w = fieldFunct3 v ∧ fieldFunct7 w = fieldFunct7 v := by
  have hmask := encodeR_and_maskR (fieldFunct7 w) (fieldRs2 w) (fieldRs1 w) (fieldRd w) (fieldFunct3 w) (fieldOpcode w)
  rw [encodeR_fields, h] at hmask
  simp [hmask]

theorem fields_of_and_maskI (h : w &&& 0x0000707f = v) :
    fieldOpcode w = fieldOpcode v ∧ fieldFunct3 w = fieldFunct3 v := by
  have hmask := encodeR_and_maskI (fieldFunct7 w) (fieldRs2 w) (fieldRs1 w) (fieldRd w) (fieldFunct3 w) (fieldOpcode w)
  rw [encodeR_fields, h] at hmask
  simp [hmask]

theorem opcode_of_and_maskU (h : w &&& 0x0000007f = v) : fieldOpcode w = fieldOpcode v := by
  have hmask := encodeR_and_maskU (fieldFunct7 w) (fieldRs2 w) (fieldRs1 w) (fieldRd w) (fieldFunct3 w) (fieldOpcode w)
  rw [encodeR_fields, h] at hmask
  simp [hmask]

/-- A word with the family bits of a laid-out one is laid out as an instruction of the same mnemonic. -/
theorem Layout.exists_of_and_familyMask {i : Instr} (h : Layout i v) (hw : w &&& familyMask v = v) :
    ∃ j, Layout j w ∧ j.mnemonic = i.mnemonic := by
  cases h with
  | op hrow =>
    obtain ⟨hop, h3, h7⟩ := fields_of_and_maskR (by simpa [familyMask] using hw)
    simp only [fieldOpcode_encodeR, fieldFunct3_encodeR, fieldFunct7_encodeR] at hop h3 h7
    exact ⟨_, layout_of_opRow hop (h3 ▸ h7 ▸ hrow), by cases hrow <;> rfl⟩
  | opImm hrow =>
    obtain ⟨hop, h3⟩ := fields_of_and_maskI (by simpa [familyMask, if_neg (funct3_of_opImmRow hrow)] using hw)
    simp only [fieldOpcode_encodeI, fieldFunct3_encodeI] at hop h3
    exact ⟨_, layout_of_opImmRow hop (h3 ▸ hrow), by cases hrow <;> rfl⟩
  | shift hrow =>
    obtain ⟨hop, h3, h7⟩ := fields_of_and_maskR (by simpa [familyMask, if_pos (funct3_of_shiftRow hrow)] using hw)
    simp only [fieldOpcode_encodeR, fieldFunct3_encodeR, fieldFunct7_encodeR] at hop h3 h7
    exact ⟨_, layout_of_shiftRow hop (h3 ▸ h7 ▸ hrow), by cases hrow <;> rfl⟩
  | load hrow =>
    obtain ⟨hop, h3⟩ := fields_of_and_maskI (by simpa [familyMask] using hw)
    simp only [fieldOpcode_encodeI, fieldFunct3_encodeI] at hop h3
    exact ⟨_, layout_of_loadRow hop (h3 ▸ hrow), by cases hrow <;> rfl⟩
  | store hrow =>
    obtain ⟨hop, h3⟩ := fields_of_and_maskI (by simpa [familyMask] using hw)
    simp only [fieldOpcode_encodeS, fieldFunct3_encodeS] at hop h3
    exact ⟨_, layout_of_storeRow hop (h3 ▸ hrow), by cases hrow <;> rfl⟩
  | branch hrow =>
    obtain ⟨hop, h3⟩ := fields_of_and_maskI (by simpa [familyMask] using hw)
    simp only [fieldOpcode_encodeB, fieldFunct3_encodeB] at hop h3
    exact ⟨_, layout_of_branchRow hop (h3 ▸ hrow), by cases hrow <;> rfl⟩
  | lui =>
    have hop := opcode_of_and_maskU (by simpa [familyMask] using hw)
    exact ⟨_, layout_of_opcode_lui (hop.trans (fieldOpcode_encodeU ..)), rfl⟩
  | auipc =>
    have hop := opcode_of_and_maskU (by simpa [familyMask] using hw)
    exact ⟨_, layout_of_opcode_auipc (hop.trans (fieldOpcode_encodeU ..)), rfl⟩
  | jal =>
    have hop := opcode_of_and_maskU (by simpa [familyMask] using hw)
    exact ⟨_, layout_of_opcode_jal (hop.trans (fieldOpcode_encodeJ ..)), rfl⟩
  | jalr =>
    obtain ⟨hop, h3⟩ := fields_of_and_maskI (by simpa [familyMask] using hw)
    simp only [fieldOpcode_encodeI, fieldFunct3_encodeI] at hop h3
    exact ⟨_, layout_of_jalr hop h3, rfl⟩
  | ecall =>
    have hall : w &&& BitVec.allOnes 32 = 0x00000073 := hw
    rw [BitVec.and_allOnes] at hall
    exact ⟨_, hall ▸ .ecall, rfl⟩

end

theorem decode_of_row_match {row : TableRow} (hrow : row ∈ opcodeTable) {w : Word} (hw : w &&& row.mask = row.value) :
    ∃ i, decode w = .ok i ∧ i.mnemonic = row.mnemonic := by
  obtain ⟨hvalue, hmask⟩ := value_mask_of_mem_opcodeTable row hrow
  cases hdec : decode row.value with
  | error e =>
    rw [hdec] at hvalue
    cases hvalue
  | ok i =>
    rw [hdec] at hvalue
    rw [hmask] at hw
    obtain ⟨j, hlay, hname⟩ := (decode_eq_ok_iff_layout.1 hdec).exists_of_and_familyMask hw
    exact ⟨j, hlay.decode_eq, hname.trans (Except.ok.inj hvalue)⟩

theorem exists_row_of_decode {w : Word} {i : Instr} (h : decode w = .ok i) :
    ∃ row ∈ opcodeTable, row.mnemonic = i.mnemonic ∧ w &&& row.mask = row.value := by
  obtain ⟨row, hmem, hname⟩ := exists_row_of_mnemonic i
  obtain ⟨-, hencode⟩ := (decode_eq_ok_iff_layout.1 h).encode_eq
  exact ⟨row, hmem, hname, hencode ▸ encodesItsRow i row hmem hname⟩

theorem inOpcodeTable_iff {w : Word} : InOpcodeTable w ↔ ∃ i, decode w = .ok i := by
  constructor
  · rintro ⟨row, hmem, hw⟩
    obtain ⟨i, hdec, -⟩ := decode_of_row_match hmem hw
    exact ⟨i, hdec⟩
  · rintro ⟨i, hdec⟩
    obtain ⟨row, hmem, -, hw⟩ := exists_row_of_decode hdec
    exact ⟨row, hmem, hw⟩

theorem not_inOpcodeTable_iff {w : Word} : ¬InOpcodeTable w ↔ ∃ e, decode w = .error e := by
  rw [inOpcodeTable_iff]
  cases decode w <;> simp

end Sys2Proof

namespace Sys2Proof.Machine

/-- Settles O3: the row of the decoded instruction's mnemonic, and the layout that the bits under a row's mask
select. -/
theorem decodeAgreesWithOpcodeTable : Obligations.DecodeAgreesWithOpcodeTable :=
  ⟨fun _ _ h => exists_row_of_decode h, fun _ _ hrow hw => decode_of_row_match hrow hw⟩

/-- Settles O4: each of the thirteen words, computed. -/
theorem sampleWordsDecodeAsWritten : Obligations.SampleWordsDecodeAsWritten := by
  unfold Obligations.SampleWordsDecodeAsWritten
  decide

end Sys2Proof.Machine
end

section
/-! PROOFS. Shifts to the right, shifts by an immediate and AUIPC (R72, R107, R108, R147 to R149, R221): the words, the
frame of the shared register write, and a shift as a product or a floor quotient by a power of two. -/

namespace Sys2Proof.Machine

theorem toNat_ushiftRight_word (a : Word) (k : Nat) : (a >>> k).toNat = a.toNat / 2 ^ k := by
  rw [BitVec.toNat_ushiftRight, Nat.shiftRight_eq_div_pow]

/-- The arithmetic shift rounds down (R108, R149). -/
theorem toInt_sshiftRight_word (a : Word) (k : Nat) : (a.sshiftRight k).toInt = a.toInt / 2 ^ k := by
  rw [BitVec.toInt_sshiftRight, Int.shiftRight_eq_div_pow, Nat.cast_pow, Nat.cast_ofNat]

theorem toNat_shiftLeft_word (a : Word) (k : Nat) : (a <<< k).toNat = a.toNat * 2 ^ k % 2 ^ 32 := by
  rw [BitVec.toNat_shiftLeft, Nat.shiftLeft_eq]

/-- Settles O8: the two rows of OP, the frame of the shared register write, and the floor quotients. -/
theorem rightShiftResults : Obligations.RightShiftResults := by
  refine ⟨⟨OpRow.srl.decodesOp, fun s rd rs1 rs2 => ?srl⟩, ⟨OpRow.sra.decodesOp, fun s rd rs1 rs2 => ?sra⟩⟩
  case srl =>
    refine registerResult_of_writeAndAdvance rfl ?_
    simp only [shiftAmount_eq, toNat_ushiftRight_word]
  case sra =>
    refine registerResult_of_writeAndAdvance rfl ?_
    simp only [shiftAmount_eq, toInt_sshiftRight_word]

/-- Settles O13: the three shift rows of OP-IMM, the frame of the shared register write, and the values. -/
theorem shiftImmediateResults : Obligations.ShiftImmediateResults := by
  refine ⟨⟨ShiftRow.slli.decodesShift, fun s rd rs1 shamt => ?slli⟩,
    ⟨ShiftRow.srli.decodesShift, fun s rd rs1 shamt => ?srli⟩,
    ⟨ShiftRow.srai.decodesShift, fun s rd rs1 shamt => ?srai⟩⟩
  case slli => exact registerResult_of_writeAndAdvance rfl (toNat_shiftLeft_word _ _)
  case srli => exact registerResult_of_writeAndAdvance rfl (toNat_ushiftRight_word _ _)
  case srai => exact registerResult_of_writeAndAdvance rfl (toInt_sshiftRight_word _ _)

/-- Settles O22: the words by their opcode; the frame of the shared register write, and the wrapping sum. -/
theorem auipcResult : Obligations.AuipcResult := by
  refine ⟨fun w hop => decode_of_opcode_auipc hop, fun s rd imm20 => ?_⟩
  refine registerResult_of_writeAndAdvance rfl ?_
  rw [BitVec.toNat_add, toNat_upperWord]

end Sys2Proof.Machine
end

section
/-! PROOFS. Signed multiply and divide (R123, R125, R127) and the division laws (R129): away from divisor 0, DIV and REM
are the bit vectors' own `sdiv` and `srem`. -/

namespace Sys2Proof.Machine

/-- A signed and an unsigned word have a product in the signed 64-bit range (R123). -/
theorem toInt_highWord_mul_signed_unsigned (a b : Word) :
    (highWord (a.toInt * (b.toNat : Int))).toInt = a.toInt * b.toNat / 2 ^ 32 := by
  have hlow : -2 ^ 31 ≤ a.toInt := a.le_toInt
  have hhigh : a.toInt < 2 ^ 31 := a.toInt_lt
  have hb : (b.toNat : Int) < 2 ^ 32 := mod_cast b.isLt
  exact toInt_highWord (by nlinarith) (by nlinarith)

/-! ## Signed quotient and remainder (R125, R127) -/

theorem quotSigned_zero (a : Word) : quotSigned a 0#32 = 0xFFFFFFFF#32 :=
  if_pos rfl

theorem remSigned_zero (a : Word) : remSigned a 0#32 = a :=
  if_pos rfl

theorem sdiv_eq_ofInt (a b : Word) : a.sdiv b = BitVec.ofInt 32 (a.toInt.tdiv b.toInt) :=
  BitVec.eq_of_toInt_eq (by rw [BitVec.toInt_sdiv, BitVec.toInt_ofInt])

theorem srem_eq_ofInt (a b : Word) : a.srem b = BitVec.ofInt 32 (a.toInt.tmod b.toInt) := by
  rw [← BitVec.toInt_srem, BitVec.ofInt_toInt]

/-- At `INT_MIN / −1` too: there the quotient wraps to `INT_MIN`. -/
theorem quotSigned_of_ne_zero (a : Word) {b : Word} (hb : b ≠ 0#32) : quotSigned a b = a.sdiv b := by
  rw [quotSigned, if_neg hb]
  split_ifs with hover
  · obtain ⟨rfl, rfl⟩ := hover
    decide
  · exact (sdiv_eq_ofInt a b).symm

theorem remSigned_of_ne_zero (a : Word) {b : Word} (hb : b ≠ 0#32) : remSigned a b = a.srem b := by
  rw [remSigned, if_neg hb]
  split_ifs with hover
  · obtain ⟨rfl, rfl⟩ := hover
    decide
  · rw [srem_eq_ofInt, Int.tmod_def]

theorem eq_zero_of_toInt {b : Word} (h : b.toInt = 0) : b = 0#32 :=
  BitVec.eq_of_toInt_eq h

theorem eq_of_toInt_overflow {a b : Word} (h : a.toInt = -2 ^ 31 ∧ b.toInt = -1) :
    a = 0x80000000#32 ∧ b = 0xFFFFFFFF#32 :=
  ⟨BitVec.eq_of_toInt_eq h.1, BitVec.eq_of_toInt_eq h.2⟩

/-- But for `INT_MIN / −1` the exact quotient fits a word. -/
theorem toInt_sdiv_of_not_overflow {a b : Word} (h : ¬(a.toInt = -2 ^ 31 ∧ b.toInt = -1)) :
    (a.sdiv b).toInt = a.toInt.tdiv b.toInt := by
  refine BitVec.toInt_sdiv_of_ne_or_ne a b (not_and_or.1 fun hab => h ?_)
  obtain ⟨rfl, rfl⟩ := hab
  decide

theorem toInt_quotSigned (a b : Word) :
    (quotSigned a b).toInt = if b.toInt = 0 then -1
      else if a.toInt = -2 ^ 31 ∧ b.toInt = -1 then -2 ^ 31 else a.toInt.tdiv b.toInt := by
  split_ifs with hzero hover
  · rw [eq_zero_of_toInt hzero, quotSigned_zero]
    decide
  · obtain ⟨rfl, rfl⟩ := eq_of_toInt_overflow hover
    decide
  · have hb : b ≠ 0#32 := fun h => hzero (h ▸ BitVec.toInt_zero)
    rw [quotSigned_of_ne_zero a hb, toInt_sdiv_of_not_overflow hover]

theorem toInt_remSigned (a b : Word) :
    (remSigned a b).toInt = if b.toInt = 0 then a.toInt
      else if a.toInt = -2 ^ 31 ∧ b.toInt = -1 then 0 else a.toInt.tmod b.toInt := by
  split_ifs with hzero hover
  · rw [eq_zero_of_toInt hzero, remSigned_zero]
  · obtain ⟨rfl, rfl⟩ := eq_of_toInt_overflow hover
    decide
  · have hb : b ≠ 0#32 := fun h => hzero (h ▸ BitVec.toInt_zero)
    rw [remSigned_of_ne_zero a hb, BitVec.toInt_srem]

/-- Settles O10: for each of the three, its row of OP, the frame of the shared register write, and its value. -/
theorem signedMultiplyDivideResults : Obligations.SignedMultiplyDivideResults := by
  refine ⟨⟨OpRow.mulhsu.decodesOp, fun s rd rs1 rs2 => ?mulhsu⟩, ⟨OpRow.div.decodesOp, fun s rd rs1 rs2 => ?div⟩,
    ⟨OpRow.rem.decodesOp, fun s rd rs1 rs2 => ?rem⟩⟩
  case mulhsu => exact registerResult_of_writeAndAdvance rfl (toInt_highWord_mul_signed_unsigned _ _)
  case div => exact registerResult_of_writeAndAdvance rfl (toInt_quotSigned _ _)
  case rem => exact registerResult_of_writeAndAdvance rfl (toInt_remSigned _ _)

/-! ## The division laws (R129) -/

section
variable (a : Word) {b : Word} (hb : b ≠ 0#32)
include hb

theorem unsigned_division_law :
    a.toNat = (quotUnsigned a b).toNat * b.toNat + (remUnsigned a b).toNat ∧ (remUnsigned a b).toNat < b.toNat := by
  rw [quotUnsigned_of_ne_zero a hb, remUnsigned_of_ne_zero a hb, BitVec.toNat_udiv, BitVec.toNat_umod]
  have hpos : 0 < b.toNat := Nat.pos_of_ne_zero (BitVec.toNat_ne.1 hb)
  exact ⟨(Nat.div_add_mod' a.toNat b.toNat).symm, Nat.mod_lt _ hpos⟩

/-- As words, `INT_MIN / −1` included: the exact law holds of the integers, and wrapping keeps sums and products. -/
theorem signed_division_law_word : a = quotSigned a b * b + remSigned a b := by
  rw [quotSigned_of_ne_zero a hb, remSigned_of_ne_zero a hb, sdiv_eq_ofInt, srem_eq_ofInt]
  calc a = BitVec.ofInt 32 (a.toInt.tdiv b.toInt * b.toInt + a.toInt.tmod b.toInt) := by
        rw [Int.tdiv_mul_add_tmod, BitVec.ofInt_toInt]
    _ = _ := by rw [BitVec.ofInt_add, BitVec.ofInt_mul, BitVec.ofInt_toInt]

theorem natAbs_remSigned_lt : (remSigned a b).toInt.natAbs < b.toInt.natAbs := by
  have hpos : 0 < b.toInt.natAbs := Int.natAbs_pos.2 fun h => hb (eq_zero_of_toInt h)
  rw [remSigned_of_ne_zero a hb, BitVec.toInt_srem, Int.natAbs_tmod]
  exact Nat.mod_lt _ hpos

theorem signed_division_law (h : ¬(a.toInt = -2 ^ 31 ∧ b.toInt = -1)) :
    a.toInt = (quotSigned a b).toInt * b.toInt + (remSigned a b).toInt := by
  rw [quotSigned_of_ne_zero a hb, remSigned_of_ne_zero a hb, toInt_sdiv_of_not_overflow h, BitVec.toInt_srem,
    Int.tdiv_mul_add_tmod]

end

theorem State.readReg_regReg (s : State) {rd : RegIdx} (hrd : rd ≠ 0#5) (rs1 rs2 : RegIdx) (f : Word → Word → Word) :
    (s.regReg rd rs1 rs2 f).readReg rd = f (s.readReg rs1) (s.readReg rs2) := by
  rw [State.regReg, State.readReg_writeAndAdvance, if_pos ⟨rfl, hrd⟩]

/-- Settles O11: the four results read back from `rd`, then the laws of the two quotients and remainders. -/
theorem divisionLaws : Obligations.DivisionLaws := by
  intro s rd rs1 rs2 hrd
  refine ⟨_, _, _, _, rfl, rfl, rfl, rfl, ?_⟩
  simp only [s.readReg_regReg hrd]
  refine ⟨fun hb => ?nonzero, fun hb => ?zero⟩
  case nonzero =>
    obtain ⟨hlaw, hlt⟩ := unsigned_division_law (s.readReg rs1) hb
    exact ⟨hlaw, hlt, signed_division_law_word _ hb, natAbs_remSigned_lt _ hb, signed_division_law _ hb⟩
  case zero =>
    rw [hb]
    exact ⟨congrArg BitVec.toInt (quotSigned_zero _), quotUnsigned_zero _, remSigned_zero _, remUnsigned_zero _⟩

end Sys2Proof.Machine
end

section
/-! PROOFS. JAL and JALR (R76, R77, R240, R241): their words, the link and the target. -/

namespace Sys2Proof.Machine

/-- The J-immediate is its four fragments in order, above a 0 bit (R68). -/
theorem toNat_immJ (w : Word) :
    (immJ w).toNat = 2 ^ 20 * (w.extractLsb' 31 1).toNat + 2 ^ 12 * (w.extractLsb' 12 8).toNat
      + 2 ^ 11 * (w.extractLsb' 20 1).toNat + 2 * (w.extractLsb' 21 10).toNat := by
  simp only [immJ, toNat_append_eq_mul_add, BitVec.toNat_zero]
  ring

theorem State.writesOnly_linkTo (s : State) (rd : RegIdx) (target : Word) :
    WritesOnly s (s.linkTo rd target) rd (s.pc + 4) target := by
  refine ⟨?written, ?others, rfl, s.writeReg_status rd _, ?memories⟩
  case written =>
    by_cases h : rd = 0#5 <;> simp [State.linkTo, State.readReg_writeReg, State.nextPc, h]
  case others =>
    intro r hr
    simp [State.linkTo, State.readReg_writeReg, hr]
  case memories =>
    exact ⟨fun j => by simp [State.linkTo], s.writeReg_imem rd _, s.writeReg_params rd _⟩

theorem State.toNat_jumpTarget (s : State) (offset : BitVec 21) :
    ((s.jumpTarget offset).toNat : Int) = (s.pc.toNat + offset.toInt) % 2 ^ 32 :=
  toNat_add_signExtend_word s.pc offset

/-- Clearing bit 0 rounds down to an even number. -/
theorem toNat_and_clearBit0 (a : Word) : (a &&& 0xFFFFFFFE).toNat = a.toNat / 2 * 2 := by
  have hclear : a &&& (0xFFFFFFFE : Word) = a >>> 1 <<< 1 := by
    refine BitVec.eq_of_getLsbD_eq fun k hk => ?_
    simp only [BitVec.getLsbD_and]
    interval_cases k <;> simp
  have ha := a.isLt
  rw [hclear, toNat_shiftLeft_word, toNat_ushiftRight_word]
  omega

theorem State.toNat_jumpRegTarget (s : State) (rs1 : RegIdx) (imm : BitVec 12) :
    ((s.jumpRegTarget rs1 imm).toNat : Int) = ((s.readReg rs1).toNat + imm.toInt) % 2 ^ 32 / 2 * 2 := by
  have hsum : (((s.readReg rs1 + immWord imm).toNat : Nat) : Int) = ((s.readReg rs1).toNat + imm.toInt) % 2 ^ 32 :=
    toNat_add_signExtend_word (s.readReg rs1) imm
  rw [State.jumpRegTarget, toNat_and_clearBit0, ← hsum]
  push_cast
  rfl

/-- Settles O23: the words by opcode and `funct3`; the link and the frame of the shared jump, and the two targets. -/
theorem jumpAndLinkResults : Obligations.JumpAndLinkResults := by
  refine ⟨fun w hop => ⟨immJ w, toNat_immJ w, decode_of_opcode_jal hop⟩, fun s rd offset => ?jal,
    fun w hop h3 => decode_of_jalr hop h3, fun s rd rs1 imm => ?jalr⟩
  case jal => exact ⟨_, rfl, s.writesOnly_linkTo rd _, s.toNat_jumpTarget offset⟩
  case jalr => exact ⟨_, rfl, s.writesOnly_linkTo rd _, s.toNat_jumpRegTarget rs1 imm⟩

end Sys2Proof.Machine
end

section
/-! PROOFS. Loads toward decreasing index, and a load after a store in either direction (R44, R45, R47, R49; C1). -/

namespace Sys2Proof.Machine

/-! ## Loads toward decreasing index (D18) -/

/-- Toward decreasing index a load takes its bytes from the indices a store at the same address puts them at. -/
theorem readIndices_of_decreasingIndex {p : Params} (hdir : p.readDirection = .decreasingIndex) (ea : Word) (n : Nat) :
    readIndices p ea n = writeIndices p ea n := by
  rw [readIndices_eq_map, writeIndices_eq_map, hdir]
  simp only [scanStep, neg_one_mul, ← sub_eq_add_neg]

theorem readIndices_succ_ok_iff_of_decreasingIndex {p : Params} {ea : Word} {n : Nat}
    (hdir : p.readDirection = .decreasingIndex) :
    indicesOk p (readIndices p ea (n + 1)) = true ↔ 1 ≤ ea.toInt ∧ ea.toInt ≤ p.capacity - n := by
  rw [readIndices_of_decreasingIndex hdir, writeIndices_succ_ok_iff]

/-- Settles O15: for each load the bounds of a store at its address, and its value from the bytes. -/
theorem loadsTowardDecreasingIndex : Obligations.LoadsTowardDecreasingIndex := by
  intro s rd rs1 imm ea cap byte hdir hea hcap hbytes
  subst hcap
  have hbyte : ∀ k, byte k = s.logicalByte (ea.toInt - scanStep s.params.readDirection * k) := fun k => by
    rw [hbytes, hdir, scanStep, neg_one_mul, sub_neg_eq_add]
  have hok (n : Nat) := readIndices_succ_ok_iff_of_decreasingIndex (ea := ea) (n := n) hdir
  have hok0 := hok 0
  rw [Nat.cast_zero, sub_zero] at hok0
  refine ⟨?lb, ?lh, ?lw, ?lbu, ?lhu⟩
  case lb => exact loadResult_of_loadAt rfl hea hbyte hok0 (toInt_sext_littleEndianWord_one byte)
  case lh => exact loadResult_of_loadAt rfl hea hbyte (hok 1) (toInt_sext_littleEndianWord_two byte)
  case lw => exact loadResult_of_loadAt rfl hea hbyte (hok 3) (toNat_littleEndianWord_four byte)
  case lbu => exact loadResult_of_loadAt rfl hea hbyte hok0 (toNat_zext_littleEndianWord_one byte)
  case lhu => exact loadResult_of_loadAt rfl hea hbyte (hok 1) (toNat_zext_littleEndianWord_two byte)

/-! ## A store then a load (R49) -/

/-- What a completed store leaves at its addresses: the low `n` bytes of the data; and the build. -/
structure HoldsBytes (t s : State) (ea : Word) (n : Nat) (v : Word) : Prop where
  byte : ∀ k < n, (t.logicalByte (ea.toInt + k)).toNat = v.toNat / 2 ^ (8 * k) % 256
  params : t.params = s.params

theorem HoldsBytes.toNat_logicalByte {t s : State} {ea v : Word} {n : Nat} (h : HoldsBytes t s ea n v) {a : Int}
    (k : Nat) (hk : k < n) (ha : a = ea.toInt + k) :
    (t.logicalByte a).toNat = v.toNat / 2 ^ (8 * k) % 256 := by
  rw [ha, h.byte k hk]

/-- After a completed store, a load form that gives `result` from the stored bytes does so. -/
theorem storeThenLoad_of_storeResult {st : Instr} {s : State} {mk : RegIdx → RegIdx → BitVec 12 → Instr}
    {ea shift v result : Word} {n : Nat} (hst : StoreResult st s ea n v)
    (hload : ∀ t rd base offset, HoldsBytes t s ea n v → ea + shift = t.readReg base + offset.signExtend 32 →
      RegisterResult (mk rd base offset) t rd fun u => u.toNat = result.toNat) :
    StoreThenLoad st s mk ea shift result := by
  obtain ⟨t, hexec, hbytes, -, -, -, hstatus, -, hparams⟩ := hst
  refine ⟨t, hexec, hstatus, fun rd base offset hea => ?_⟩
  obtain ⟨u, v, hexec', hwrites, hv⟩ := hload t rd base offset ⟨hbytes, hparams⟩ hea.symm
  obtain rfl : v = result := BitVec.eq_of_toNat_eq hv
  exact ⟨u, hexec', hwrites⟩

theorem RegisterResult.imp {i : Instr} {s : State} {rd : RegIdx} {P Q : Word → Prop} (h : RegisterResult i s rd P)
    (hPQ : ∀ v, P v → Q v) : RegisterResult i s rd Q := by
  obtain ⟨t, v, hexec, hwrites, hv⟩ := h
  exact ⟨t, v, hexec, hwrites, hPQ v hv⟩

/-- A sum of words that stays in the signed range is the sum of their signed values. -/
theorem toInt_add_of_lt {a b : Word} {k : Int} (hb : b.toInt = k) (hlow : -2 ^ 31 ≤ a.toInt + k)
    (hhigh : a.toInt + k < 2 ^ 31) : (a + b).toInt = a.toInt + k := by
  rw [BitVec.toInt_add, hb]
  exact Int.bmod_eq_of_le (by omega) (by omega)

/-- Settles O17: the store's result, then the load's at the last byte's address, whose bytes are the stored ones from
the last to the first. -/
theorem storedWordLoadsBackReversed : Obligations.StoredWordLoadsBackReversed := by
  intro s rs2 rs1 imm ea v hinv hdir hea hv hlow
  subst hv
  obtain ⟨⟨hsb, -⟩, ⟨hsh, -⟩, ⟨hsw, -⟩⟩ := storesWriteTheirBytesOnly.2 s rs2 rs1 imm ea _ hinv hea rfl
  have hv := (s.readReg rs2).isLt
  refine ⟨fun hcap => ?sb, fun hcap hfit => ?sh, fun hcap hfit => ?sw⟩
  case sb =>
    refine storeThenLoad_of_storeResult (hsb ⟨hlow, hcap⟩) fun t rd base offset hbytes hea' => ?_
    obtain ⟨-, -, -, ⟨hload, -⟩, -⟩ :=
      loadsTowardIncreasingIndex.2 t rd base offset _ _ _ (hbytes.params ▸ hdir) hea' rfl fun _ => rfl
    have hto : (ea + 0).toInt = ea.toInt := congrArg BitVec.toInt (add_zero ea)
    rw [hbytes.params] at hload
    refine (hload ⟨by omega, by omega⟩).imp fun u hu => ?_
    rw [hu, hbytes.toNat_logicalByte 0 (by decide) (by omega), BitVec.toNat_ofNat]
    omega
  case sh =>
    refine storeThenLoad_of_storeResult (hsh ⟨hlow, by omega⟩) fun t rd base offset hbytes hea' => ?_
    obtain ⟨-, -, -, -, ⟨hload, -⟩⟩ :=
      loadsTowardIncreasingIndex.2 t rd base offset _ _ _ (hbytes.params ▸ hdir) hea' rfl fun _ => rfl
    have hto : (ea + 1).toInt = ea.toInt + 1 := toInt_add_of_lt rfl (by omega) (by omega)
    rw [hbytes.params] at hload
    refine (hload ⟨by omega, by omega⟩).imp fun u hu => ?_
    rw [hu, hbytes.toNat_logicalByte 1 (by decide) (by omega), hbytes.toNat_logicalByte 0 (by decide) (by omega),
      BitVec.toNat_ofNat]
    simp only [Nat.reduceMul, Nat.reducePow, Nat.div_one]
    omega
  case sw =>
    refine storeThenLoad_of_storeResult (hsw ⟨hlow, by omega⟩) fun t rd base offset hbytes hea' => ?_
    obtain ⟨-, -, ⟨hload, -⟩, -, -⟩ :=
      loadsTowardIncreasingIndex.2 t rd base offset _ _ _ (hbytes.params ▸ hdir) hea' rfl fun _ => rfl
    have hto : (ea + 3).toInt = ea.toInt + 3 := toInt_add_of_lt rfl (by omega) (by omega)
    rw [hbytes.params] at hload
    refine (hload ⟨by omega, by omega⟩).imp fun u hu => ?_
    rw [hu, hbytes.toNat_logicalByte 3 (by decide) (by omega), hbytes.toNat_logicalByte 2 (by decide) (by omega),
      hbytes.toNat_logicalByte 1 (by decide) (by omega), hbytes.toNat_logicalByte 0 (by decide) (by omega),
      BitVec.toNat_ofNat]
    simp only [Nat.reduceMul, Nat.reducePow, Nat.div_one]
    rw [Nat.mod_eq_of_lt (a := _ / 16777216) (by omega), Nat.mod_eq_of_lt (b := 4294967296) (by omega)]
    omega

/-- Settles O18: the store's result, then the load's at the same address, whose bytes are the stored ones in order. -/
theorem roundTripTowardDecreasingIndex : Obligations.RoundTripTowardDecreasingIndex := by
  intro s rs2 rs1 imm ea v hinv hdir hea hv hlow
  subst hv
  obtain ⟨⟨hsb, -⟩, ⟨hsh, -⟩, ⟨hsw, -⟩⟩ := storesWriteTheirBytesOnly.2 s rs2 rs1 imm ea _ hinv hea rfl
  have hv := (s.readReg rs2).isLt
  have hto : (ea + 0).toInt = ea.toInt := congrArg BitVec.toInt (add_zero ea)
  refine ⟨fun hcap => ?sb, fun hcap => ?sh, fun hcap => ?sw⟩
  case sb =>
    refine storeThenLoad_of_storeResult (hsb ⟨hlow, hcap⟩) fun t rd base offset hbytes hea' => ?_
    obtain ⟨-, -, -, ⟨hload, -⟩, -⟩ :=
      loadsTowardDecreasingIndex t rd base offset _ _ _ (hbytes.params ▸ hdir) hea' rfl fun _ => rfl
    rw [hbytes.params] at hload
    refine (hload ⟨by omega, by omega⟩).imp fun u hu => ?_
    rw [hu, hbytes.toNat_logicalByte 0 (by decide) (by omega), BitVec.toNat_ofNat]
    omega
  case sh =>
    refine storeThenLoad_of_storeResult (hsh ⟨hlow, by omega⟩) fun t rd base offset hbytes hea' => ?_
    obtain ⟨-, -, -, -, ⟨hload, -⟩⟩ :=
      loadsTowardDecreasingIndex t rd base offset _ _ _ (hbytes.params ▸ hdir) hea' rfl fun _ => rfl
    rw [hbytes.params] at hload
    refine (hload ⟨by omega, by omega⟩).imp fun u hu => ?_
    rw [hu, hbytes.toNat_logicalByte 0 (by decide) (by omega), hbytes.toNat_logicalByte 1 (by decide) (by omega),
      BitVec.toNat_ofNat]
    simp only [Nat.reduceMul, Nat.reducePow, Nat.div_one]
    omega
  case sw =>
    refine storeThenLoad_of_storeResult (hsw ⟨hlow, by omega⟩) fun t rd base offset hbytes hea' => ?_
    obtain ⟨-, -, ⟨hload, -⟩, -, -⟩ :=
      loadsTowardDecreasingIndex t rd base offset _ _ _ (hbytes.params ▸ hdir) hea' rfl fun _ => rfl
    rw [hbytes.params] at hload
    refine (hload ⟨by omega, by omega⟩).imp fun u hu => ?_
    rw [hu, hbytes.toNat_logicalByte 0 (by decide) (by omega), hbytes.toNat_logicalByte 1 (by decide) (by omega),
      hbytes.toNat_logicalByte 2 (by decide) (by omega), hbytes.toNat_logicalByte 3 (by decide) (by omega)]
    simp only [Nat.reduceMul, Nat.reducePow, Nat.div_one]
    omega

end Sys2Proof.Machine
end

section
/-! PROOFS. What every instruction, step and run keep: the image, the build, the invariant, and each store byte but for
the stores to it (R31, R32, R40, R55, R58); and what reset leaves (R34, R320). -/

namespace Sys2Proof.Machine

/-- An instruction's next state is one of its effects. -/
theorem effect_of_exec {i : Instr} {s t : State} (h : exec i s = .next t) : Effect i s t := by
  obtain ⟨u, hu, he⟩ := exec_effect i s
  obtain rfl : u = t := Host.Outcome.next.inj (hu.symm.trans h)
  exact he

/-! ## Image, build and invariant -/

theorem Effect.imem_params {i : Instr} {s t : State} (he : Effect i s t) : t.imem = s.imem ∧ t.params = s.params := by
  cases he with
  | write rd v target => exact ⟨s.writeReg_imem rd v, s.writeReg_params rd v⟩
  | goTo | ended | stored => exact ⟨rfl, rfl⟩

theorem indicesOk_iff {p : Params} {js : List Int} :
    indicesOk p js = true ↔ ∀ j ∈ js, 0 ≤ j ∧ j < (p.capacity : Int) := by
  simp only [indicesOk, List.all_eq_true, validIndex_iff]

/-- A store at indices inside the store keeps the canonical form and adds no index outside. -/
theorem Effect.inv {i : Instr} {s t : State} (he : Effect i s t) (hinv : s.Inv) : t.Inv := by
  obtain ⟨hwf, hcap, himem⟩ := hinv
  cases he with
  | write rd v target => exact ⟨by simpa using hwf, by simpa using hcap, by simpa using himem⟩
  | goTo | ended => exact ⟨hwf, hcap, himem⟩
  | stored n rs2 rs1 imm _ hok =>
    refine ⟨Memory.wf_writeBytes hwf _ _ _, fun c hc => ?_, himem⟩
    rcases Memory.mem_writeBytes hc with hold | ⟨j, hj, hcj⟩
    · exact hcap c hold
    · obtain ⟨hlow, hhigh⟩ := indicesOk_iff.1 hok j hj
      change c.1 < s.params.capacity
      omega

/-- What every effect keeps, a step keeps: to end the run is one of the effects. -/
theorem step_imem_params {s t : State} (h : step s = .next t) : t.imem = s.imem ∧ t.params = s.params := by
  obtain ⟨-, ⟨o, -, rfl⟩ | ⟨i, -, -, he⟩⟩ := step_cases h
  · exact ⟨rfl, rfl⟩
  · exact he.imem_params

theorem step_inv {s t : State} (h : step s = .next t) (hinv : s.Inv) : t.Inv := by
  obtain ⟨-, ⟨o, -, rfl⟩ | ⟨i, -, -, he⟩⟩ := step_cases h
  · exact hinv
  · exact he.inv hinv

/-- Settles O37: a step ends the run or has one of the four effects, and each keeps the invariant. -/
theorem stepKeepsTheInvariant : Obligations.StepKeepsTheInvariant :=
  fun _ _ hinv h => step_inv h hinv

/-- What holds of no steps and is carried over by one more step holds of a run. -/
theorem run_induction {R : State → State → Prop} (hrefl : ∀ s, R s s)
    (hstep : ∀ s u t, step s = .next u → R u t → R s t) {k : Nat} {s t : State} (h : core.run k s = .next t) :
    R s t := by
  induction k generalizing s with
  | zero =>
    cases h
    exact hrefl _
  | succ k ih =>
    obtain ⟨u, hfirst, hrest⟩ := run_succ_eq_next_iff.1 h
    exact hstep s u t hfirst (ih hrest)

/-- Settles O38: the frame and the invariant of a step, carried along the run. -/
theorem runsKeepImageAndBuild : Obligations.RunsKeepImageAndBuild := by
  intro k s t h
  refine run_induction (R := fun s t => t.imem = s.imem ∧ t.params = s.params ∧ (s.Inv → t.Inv)) ?_ ?_ h
  · exact fun s => ⟨rfl, rfl, id⟩
  · rintro s u v hstep ⟨himem, hparams, hinv⟩
    obtain ⟨himem', hparams'⟩ := step_imem_params hstep
    exact ⟨himem.trans himem', hparams.trans hparams', fun h => hinv (step_inv hstep h)⟩

/-! ## The store's bytes -/

theorem Effect.store_of_not_store {i : Instr} {s t : State} (he : Effect i s t) (hst : storeAccess i = none) :
    t.store = s.store := by
  cases he with
  | write rd v target => exact s.writeReg_store rd v
  | goTo | ended => rfl
  | stored _ _ _ _ hst' => cases hst.symm.trans hst'

theorem storedIndices_of_store {i : Instr} {s : State} {n : Nat} {rs2 rs1 : RegIdx} {imm : BitVec 12}
    (hst : storeAccess i = some (n, rs2, rs1, imm)) :
    storedIndices i s = writeIndices s.params (s.effectiveAddress rs1 imm) n := by
  rw [storedIndices, hst]

theorem Effect.read_of_not_mem {i : Instr} {s t : State} (he : Effect i s t) (hwf : s.store.wf) {j : Nat}
    (hj : (j : Int) ∉ storedIndices i s) : t.store.read j = s.store.read j := by
  cases he with
  | write rd v target => rw [State.setPc_store, State.writeReg_store]
  | goTo | ended => rfl
  | stored n rs2 rs1 imm hst hok =>
    rw [storedIndices_of_store hst] at hj
    refine Memory.read_writeBytes_of_not_mem hwf fun j' hj' hjj' => hj ?_
    obtain ⟨hlow, -⟩ := indicesOk_iff.1 hok j' hj'
    rwa [hjj', Int.toNat_of_nonneg hlow]

/-- Settles O26: the effects of an instruction, of which only a store's bytes change the store. -/
theorem onlyStoresChangeTheStore : Obligations.OnlyStoresChangeTheStore := by
  rintro i s t ⟨hwf, -, -⟩ h
  exact ⟨fun j hj => (effect_of_exec h).read_of_not_mem hwf hj, (effect_of_exec h).imem_params⟩

/-! ## The latest stored byte (R55) -/

theorem storeEffect_of_fetch_error {s : State} {o : RunStatus} (hf : s.fetchInstr = .error o) (j : Nat) :
    storeEffect s j = none := by
  rw [storeEffect, hf]

theorem storeEffect_of_not_store {s : State} {i : Instr} (hf : s.fetchInstr = .ok i) (hst : storeAccess i = none)
    (j : Nat) : storeEffect s j = none := by
  simp only [storeEffect, hf, hst]

/-- A store's byte at an index: the byte of the data that its distance from the first index names. -/
theorem storeAt_read_eq_getD_storeEffect {s : State} {i : Instr} {n : Nat} {rs2 rs1 : RegIdx} {imm : BitVec 12}
    (hwf : s.store.wf) (hf : s.fetchInstr = .ok i) (hst : storeAccess i = some (n, rs2, rs1, imm)) (j : Nat) :
    (s.storeAt n rs2 rs1 imm).store.read j = (storeEffect s j).getD (s.store.read j) := by
  simp only [storeEffect, hf, hst]
  rcases s.storeAt_cases n rs2 rs1 imm with ⟨hok, h⟩ | ⟨hbad, h⟩ <;> rw [h]
  · split
    case isTrue hhit =>
      obtain ⟨-, hlow, hhigh⟩ := hhit
      obtain ⟨k, hk⟩ := Int.eq_ofNat_of_zero_le hlow
      have hj : j = (storeIndex s.params.capacity (s.effectiveAddress rs1 imm) - k).toNat := by omega
      rw [hk, Int.toNat_natCast, Option.getD_some]
      conv_lhs => rw [hj]
      exact Memory.read_writeBytes_writeIndices hwf hok _ (by omega)
    case isFalse hmiss =>
      exact Memory.read_writeBytes_writeIndices_of_ne hwf hok _ fun k hk hjk => hmiss ⟨hok, by omega, by omega⟩
  · rw [if_neg (by simp [hbad])]
    rfl

theorem step_read_eq_getD_storeEffect {s t : State} (hwf : s.store.wf) (h : step s = .next t) (j : Nat) :
    t.store.read j = (storeEffect s j).getD (s.store.read j) := by
  obtain ⟨-, ⟨o, hf, rfl⟩ | ⟨i, hf, hexec, he⟩⟩ := step_cases h
  · rw [storeEffect_of_fetch_error hf]
    rfl
  · cases hst : storeAccess i with
    | none =>
      rw [storeEffect_of_not_store hf hst, he.store_of_not_store hst]
      rfl
    | some access =>
      obtain ⟨n, rs2, rs1, imm⟩ := access
      obtain rfl := Host.Outcome.next.inj (((exec_of_storeAccess hst).2 s).symm.trans hexec)
      exact storeAt_read_eq_getD_storeEffect hwf hf hst j

theorem latestStore_succ {s u : State} (h : step s = .next u) (k j : Nat) :
    latestStore (k + 1) s j = (latestStore k u j).or (storeEffect s j) := by
  rw [latestStore, h]

/-- Settles O19: the byte a step leaves, carried along the run; a later store stands over the first step's. -/
theorem storeHoldsTheLatestStoredByte : Obligations.StoreHoldsTheLatestStoredByte := by
  intro k
  induction k with
  | zero =>
    intro s t _ h j
    cases h
    rfl
  | succ k ih =>
    intro s t hinv h j
    obtain ⟨u, hstep, hrun⟩ := run_succ_eq_next_iff.1 h
    rw [ih u t (step_inv hstep hinv) hrun j, step_read_eq_getD_storeEffect hinv.1 hstep, latestStore_succ hstep]
    cases latestStore k u j <;> rfl

/-! ## Reset -/

/-- Settles O39: nothing is listed, and the image is empty. -/
theorem resetMeetsTheInvariant : Obligations.ResetMeetsTheInvariant := by
  unfold Obligations.ResetMeetsTheInvariant
  decide

/-- Register `k + 1` stands at position `k` of the register file. -/
theorem State.readReg_ofNat_succ (s : State) {k : Nat} (hk : k < 31) : s.readReg (BitVec.ofNat 5 (k + 1)) = s.x[k] := by
  have hto : (BitVec.ofNat 5 (k + 1)).toNat = k + 1 := by
    rw [BitVec.toNat_ofNat, Nat.mod_eq_of_lt (by omega)]
  have hne : BitVec.ofNat 5 (k + 1) ≠ 0#5 := fun h => by
    rw [h] at hto
    cases hto
  simp [State.readReg, hne, hto]

theorem State.readReg_reset (r : RegIdx) : State.reset.readReg r = 0 := by
  simp [State.readReg, State.reset, State.boot]

/-- Settles O40: the fields of `boot`, and its registers by their place in the file. -/
theorem resetLeavesTheGivenState : Obligations.ResetLeavesTheGivenState := by
  refine ⟨fun p image initX initStore => ?_, State.readReg_reset, fun j => rfl, rfl, rfl, rfl⟩
  exact ⟨rfl, rfl, State.readReg_zero _, fun k hk => State.readReg_ofNat_succ _ hk, fun j => rfl, rfl⟩

end Sys2Proof.Machine
end

section
/-! PROOFS. The kinds of instruction (R26, R290): what moves the pc, what can end the run, and the cause of each outcome
at execute. -/

namespace Sys2Proof.Machine

/-! ## The kinds of instruction -/

/-- `i` completes: the pc moves to its successor and the status stays (R26). -/
def Completes (i : Instr) (s : State) : Prop :=
  ∃ t, exec i s = .next t ∧ t.pc = s.nextPc ∧ t.status = s.status

theorem Completes.pc_eq {i : Instr} {s t : State} (h : Completes i s) (ht : exec i s = .next t) : t.pc = s.nextPc := by
  obtain ⟨u, hu, hpc, -⟩ := h
  obtain rfl : u = t := Host.Outcome.next.inj (hu.symm.trans ht)
  exact hpc

theorem Completes.status_eq {i : Instr} {s t : State} (h : Completes i s) (ht : exec i s = .next t) :
    t.status = s.status := by
  obtain ⟨u, hu, -, hstatus⟩ := h
  obtain rfl : u = t := Host.Outcome.next.inj (hu.symm.trans ht)
  exact hstatus

theorem completes_of_writeAndAdvance {i : Instr} {s : State} {rd : RegIdx} {v : Word}
    (h : exec i s = .next (s.writeAndAdvance rd v)) : Completes i s :=
  ⟨_, h, s.writeAndAdvance_pc rd v, s.writeAndAdvance_status rd v⟩

/-- An instruction writes one register and advances, redirects the pc, loads, stores, or is ECALL. -/
inductive InstrKind (i : Instr) : Prop where
  | advances (hcompletes : ∀ s, Completes i s)
  | redirects (hre : redirects i = true) (hexec : ∀ s, ∃ t, exec i s = .next t ∧ t.status = s.status)
  | load (n : Nat) (rs1 : RegIdx) (imm : BitVec 12) (hld : loadAccess i = some (n, rs1, imm))
  | store (n : Nat) (rs2 rs1 : RegIdx) (imm : BitVec 12) (hst : storeAccess i = some (n, rs2, rs1, imm))
  | ecall (hi : i = .ecall)

theorem instrKind (i : Instr) : InstrKind i := by
  cases i with
  | lb rd rs1 imm | lh rd rs1 imm | lw rd rs1 imm | lbu rd rs1 imm | lhu rd rs1 imm => exact .load _ rs1 imm rfl
  | sb rs2 rs1 imm | sh rs2 rs1 imm | sw rs2 rs1 imm => exact .store _ rs2 rs1 imm rfl
  | beq | bne | blt | bge | bltu | bgeu => exact .redirects rfl fun s => ⟨_, rfl, rfl⟩
  | jal rd | jalr rd => exact .redirects rfl fun s => ⟨_, rfl, s.writeReg_status rd _⟩
  | ecall => exact .ecall rfl
  | add | sub | sll | slt | sltu | xor | srl | sra | or | and | mul | mulh | mulhsu | mulhu | div | divu | rem | remu
  | addi | slti | sltiu | xori | ori | andi | slli | srli | srai | lui | auipc =>
    exact .advances fun s => completes_of_writeAndAdvance rfl

theorem State.memRead_eq_none_iff {s : State} {ea : Word} {n : Nat} :
    s.memRead ea n = none ↔ indicesOk s.params (readIndices s.params ea n) = false := by
  simp [State.memRead]

/-- A load completes, or ends the run where a byte is out of range. -/
theorem exec_load_cases {i : Instr} {n : Nat} {rs1 : RegIdx} {imm : BitVec 12} (hld : loadAccess i = some (n, rs1, imm))
    (s : State) :
    (Completes i s ∧ indicesOk s.params (readIndices s.params (s.effectiveAddress rs1 imm) n) = true) ∨
    (EndsRun i s (.addressingFault .load (s.effectiveAddress rs1 imm)) ∧
      indicesOk s.params (readIndices s.params (s.effectiveAddress rs1 imm) n) = false) := by
  obtain ⟨extend, rd, -, hexec⟩ := exec_of_loadAccess hld
  rcases s.loadAt_cases n extend rd rs1 imm with ⟨v, hread, hload⟩ | ⟨hread, hload⟩
  · refine .inl ⟨completes_of_writeAndAdvance ((hexec s).trans (congrArg _ hload)), ?_⟩
    by_contra hbad
    rw [State.memRead_eq_none_iff.2 (Bool.not_eq_true _ ▸ hbad)] at hread
    cases hread
  · exact .inr ⟨(hexec s).trans (congrArg _ hload), State.memRead_eq_none_iff.1 hread⟩

/-- A store completes, or ends the run where a byte is out of range. -/
theorem exec_store_cases {i : Instr} {n : Nat} {rs2 rs1 : RegIdx} {imm : BitVec 12}
    (hst : storeAccess i = some (n, rs2, rs1, imm)) (s : State) :
    (Completes i s ∧ indicesOk s.params (writeIndices s.params (s.effectiveAddress rs1 imm) n) = true) ∨
    (EndsRun i s (.addressingFault .store (s.effectiveAddress rs1 imm)) ∧
      indicesOk s.params (writeIndices s.params (s.effectiveAddress rs1 imm) n) = false) := by
  obtain ⟨-, hexec⟩ := exec_of_storeAccess hst
  rcases s.storeAt_cases n rs2 rs1 imm with ⟨hok, hstore⟩ | ⟨hbad, hstore⟩
  · exact .inl ⟨⟨_, (hexec s).trans (congrArg _ hstore), rfl, rfl⟩, hok⟩
  · exact .inr ⟨(hexec s).trans (congrArg _ hstore), hbad⟩

/-! ## What ends the run at execute (R260, R284, R290) -/

/-- The cause of an outcome that an instruction ends the run with. -/
inductive EndCause (i : Instr) (s : State) : RunStatus → Prop where
  | load (n : Nat) (rs1 : RegIdx) (imm : BitVec 12) (hld : loadAccess i = some (n, rs1, imm))
      (hbad : indicesOk s.params (readIndices s.params (s.effectiveAddress rs1 imm) n) = false) :
      EndCause i s (.addressingFault .load (s.effectiveAddress rs1 imm))
  | store (n : Nat) (rs2 rs1 : RegIdx) (imm : BitVec 12) (hst : storeAccess i = some (n, rs2, rs1, imm))
      (hbad : indicesOk s.params (writeIndices s.params (s.effectiveAddress rs1 imm) n) = false) :
      EndCause i s (.addressingFault .store (s.effectiveAddress rs1 imm))
  | exit (hi : i = .ecall) (h10 : s.readReg 10 = 10) : EndCause i s (.halted 0)
  | exitCode (hi : i = .ecall) (h17 : s.readReg 10 = 17) : EndCause i s (.halted (s.readReg 11))
  | unsupported (hi : i = .ecall) (h10 : s.readReg 10 ≠ 10) (h17 : s.readReg 10 ≠ 17) :
      EndCause i s (.unsupportedSyscall (s.readReg 10))

theorem EndCause.endsRun {i : Instr} {s : State} {o : RunStatus} (h : EndCause i s o) : EndsRun i s o := by
  cases h with
  | load n rs1 imm hld hbad =>
    rcases exec_load_cases hld s with ⟨-, hok⟩ | ⟨hends, -⟩
    · cases hok.symm.trans hbad
    · exact hends
  | store n rs2 rs1 imm hst hbad =>
    rcases exec_store_cases hst s with ⟨-, hok⟩ | ⟨hends, -⟩
    · cases hok.symm.trans hbad
    · exact hends
  | exit hi h10 =>
    subst hi
    exact endsRun_ecall (syscallOutcome_of_exit (by rw [h10]; rfl))
  | exitCode hi h17 =>
    subst hi
    exact endsRun_ecall (syscallOutcome_of_exitCode (by rw [h17]; rfl))
  | unsupported hi h10 h17 =>
    subst hi
    exact endsRun_ecall (syscallOutcome_of_unsupported (fun h => h10 (BitVec.eq_of_toNat_eq h))
      fun h => h17 (BitVec.eq_of_toNat_eq h))

/-- One of the three cases of the selector is the cause of ECALL's outcome. -/
theorem exists_endCause_ecall (s : State) : ∃ o, EndCause .ecall s o := by
  by_cases h10 : s.readReg 10 = 10
  · exact ⟨_, .exit rfl h10⟩
  by_cases h17 : s.readReg 10 = 17
  · exact ⟨_, .exitCode rfl h17⟩
  · exact ⟨_, .unsupported rfl h10 h17⟩

theorem EndsRun.status_eq {i : Instr} {s t : State} {o : RunStatus} (h : EndsRun i s o) (ht : exec i s = .next t) :
    t.status = o :=
  congrArg State.status (Host.Outcome.next.inj (ht.symm.trans h))

/-- Everything an instruction does to a running status. -/
theorem exec_status_cases {i : Instr} {s t : State} (hrun : s.status = .running) (h : exec i s = .next t) :
    t.status = .running ∨ EndCause i s t.status := by
  cases instrKind i with
  | advances hcompletes => exact .inl (((hcompletes s).status_eq h).trans hrun)
  | redirects _ hexec =>
    obtain ⟨u, hexec, hstatus⟩ := hexec s
    obtain rfl := Host.Outcome.next.inj (hexec.symm.trans h)
    exact .inl (hstatus.trans hrun)
  | load n rs1 imm hld =>
    rcases exec_load_cases hld s with ⟨hcompletes, -⟩ | ⟨hends, hbad⟩
    · exact .inl ((hcompletes.status_eq h).trans hrun)
    · exact .inr (hends.status_eq h ▸ .load n rs1 imm hld hbad)
  | store n rs2 rs1 imm hst =>
    rcases exec_store_cases hst s with ⟨hcompletes, -⟩ | ⟨hends, hbad⟩
    · exact .inl ((hcompletes.status_eq h).trans hrun)
    · exact .inr (hends.status_eq h ▸ .store n rs2 rs1 imm hst hbad)
  | ecall hi =>
    subst hi
    obtain ⟨o, hcause⟩ := exists_endCause_ecall s
    exact .inr (hcause.endsRun.status_eq h ▸ hcause)

/-- Settles O28: a running status stays or has one of the causes at execute, and a cause names its instruction; ECALL
has one for every selector. -/
theorem onlyAccessesAndEcallEndTheRun : Obligations.OnlyAccessesAndEcallEndTheRun := by
  intro i s t hrun h
  refine ⟨fun hld hst hecall => ?other, fun hi => ?ecall, fun n rs1 imm hld => ?load, fun n rs2 rs1 imm hst => ?store⟩
  case other =>
    refine (exec_status_cases hrun h).resolve_right fun hcause => ?_
    generalize t.status = o at hcause
    cases hcause with
    | load _ _ _ hld' => cases hld.symm.trans hld'
    | store _ _ _ _ hst' => cases hst.symm.trans hst'
    | exit hi | exitCode hi | unsupported hi => exact hecall hi
  case ecall =>
    subst hi
    obtain ⟨o, hcause⟩ := exists_endCause_ecall s
    rw [hcause.endsRun.status_eq h]
    cases hcause with
    | load _ _ _ hld | store _ _ _ _ hld => cases hld
    | exit | exitCode => exact .inl ⟨_, rfl⟩
    | unsupported => exact .inr ⟨_, rfl⟩
  case load =>
    rcases exec_load_cases hld s with ⟨hcompletes, -⟩ | ⟨hends, -⟩
    · exact .inl ((hcompletes.status_eq h).trans hrun)
    · exact .inr (hends.status_eq h)
  case store =>
    rcases exec_store_cases hst s with ⟨hcompletes, -⟩ | ⟨hends, -⟩
    · exact .inl ((hcompletes.status_eq h).trans hrun)
    · exact .inr (hends.status_eq h)

/-- Where the run goes on, no kind but the redirecting one moves the pc elsewhere than to its successor. -/
theorem exec_pc_eq_nextPc {i : Instr} {s t : State} (h : exec i s = .next t) (hrun : t.status = .running)
    (hre : redirects i = false) : t.pc = s.nextPc := by
  cases instrKind i with
  | advances hcompletes => exact (hcompletes s).pc_eq h
  | redirects hre' => cases hre.symm.trans hre'
  | load n rs1 imm hld =>
    rcases exec_load_cases hld s with ⟨hcompletes, -⟩ | ⟨hends, -⟩
    · exact hcompletes.pc_eq h
    · cases hrun.symm.trans (hends.status_eq h)
  | store n rs2 rs1 imm hst =>
    rcases exec_store_cases hst s with ⟨hcompletes, -⟩ | ⟨hends, -⟩
    · exact hcompletes.pc_eq h
    · cases hrun.symm.trans (hends.status_eq h)
  | ecall hi =>
    subst hi
    obtain ⟨o, hcause⟩ := exists_endCause_ecall s
    obtain rfl := hrun.symm.trans (hcause.endsRun.status_eq h)
    cases hcause

/-- Settles O27: the successor of the kinds that do not redirect. -/
theorem pcMovesToTheSuccessor : Obligations.PcMovesToTheSuccessor := by
  intro i s t _ h hrun hre
  rw [exec_pc_eq_nextPc h hrun hre, State.toNat_nextPc]

/-- Settles O29: an instruction's next state is one of its effects, and none touches the image or the build. -/
theorem everyInstructionHasANextState : Obligations.EveryInstructionHasANextState := by
  intro i s
  obtain ⟨t, h, he⟩ := exec_effect i s
  exact ⟨t, h, he.imem_params⟩

end Sys2Proof.Machine
end

section
/-! PROOFS. The step (R59, R282 to R287, R322): it runs the decoded instruction, a fetch or decode that fails ends the
run, an outcome has its one cause, and after it there is no step. -/

namespace Sys2Proof.Machine

/-! ## The two forms of a step -/

section
variable {s : State} (hrun : s.status = .running)
include hrun

theorem step_of_fetchesInstr {i : Instr} (h : FetchesInstr s i) : step s = exec i s := by
  rw [step, if_pos (RunStatus.isRunning_iff.2 hrun), State.fetchInstr_eq_ok_iff.2 h]

theorem step_of_fetchInstr_error {o : RunStatus} (h : s.fetchInstr = .error o) : step s = .next (s.terminate o) := by
  rw [step, if_pos (RunStatus.isRunning_iff.2 hrun), h]

theorem exists_step_of_running : ∃ t, step s = .next t := by
  cases hf : s.fetchInstr with
  | error o => exact ⟨_, step_of_fetchInstr_error hrun hf⟩
  | ok i =>
    obtain ⟨t, h, -⟩ := exec_effect i s
    exact ⟨t, (step_of_fetchesInstr hrun (State.fetchInstr_eq_ok_iff.1 hf)).trans h⟩

end

theorem step_of_ended {s : State} (h : s.status ≠ .running) : step s = .fault (.runEnded s.status) := by
  rw [step, if_neg (mt RunStatus.isRunning_iff.1 h)]

/-- Settles O30: the branch of the step for a fetched and decoded instruction. -/
theorem stepRunsTheDecodedInstruction : Obligations.StepRunsTheDecodedInstruction :=
  fun _ _ hrun h => step_of_fetchesInstr hrun h

/-! ## The end of a run (R286, R287) -/

theorem run_succ_of_ended {s : State} (h : s.status ≠ .running) (k : Nat) :
    core.run (k + 1) s = .fault (.runEnded s.status) := by
  have hstep : core.step s = .fault (.runEnded s.status) := step_of_ended h
  simp only [Host.Core.run, hstep]

/-- Settles O31: the step of an ended state and of a running one, and the first step of a run. -/
theorem terminalOutcomesAreSticky : Obligations.TerminalOutcomesAreSticky :=
  ⟨fun _ h => step_of_ended h, fun _ hrun => exists_step_of_running hrun, fun k _ h => run_succ_of_ended h k⟩

/-- A run of `j + k` steps is a run of `j` and then a run of `k`. -/
theorem run_add_eq_next_iff {M : Host.Core} {j k : Nat} {s t : M.State} :
    M.run (j + k) s = .next t ↔ ∃ u, M.run j s = .next u ∧ M.run k u = .next t := by
  induction j generalizing s with
  | zero => simp [Host.Core.run]
  | succ j ih =>
    rw [Nat.add_right_comm, run_succ_eq_next_iff]
    simp only [ih, run_succ_eq_next_iff]
    constructor
    · rintro ⟨v, hv, u, hu, ht⟩
      exact ⟨u, ⟨v, hv, hu⟩, ht⟩
    · rintro ⟨u, ⟨v, hv, hu⟩, ht⟩
      exact ⟨v, hv, u, hu, ht⟩

/-- Settles O45: after the first `j` steps there is no further one, so that the rest of the run has none. -/
theorem nothingHappensAfterTheEnd : Obligations.NothingHappensAfterTheEnd := by
  intro j k s u t hu hended ht
  obtain ⟨v, hv, hrest⟩ := run_add_eq_next_iff.1 ht
  obtain rfl : u = v := Host.Outcome.next.inj (hu.symm.trans hv)
  cases k with
  | zero => exact ⟨rfl, (Host.Outcome.next.inj hrest).symm⟩
  | succ k => cases (run_succ_of_ended hended k).symm.trans hrest

/-- Of the effects of an instruction only the end of the run changes a running status, and it changes nothing else. -/
theorem Effect.eq_of_ended {i : Instr} {s t : State} (he : Effect i s t) (hrun : s.status = .running)
    (hended : t.status ≠ .running) : t = { s with status := t.status } := by
  cases he with
  | write rd v target => exact absurd ((s.writeReg_status rd v).trans hrun) hended
  | goTo | stored => exact absurd hrun hended
  | ended => rfl

/-- Settles O32: fetch and decode end the run by the status alone, and so does an instruction. -/
theorem terminationIsPrecise : Obligations.TerminationIsPrecise := by
  intro s t h hended
  obtain ⟨hrun, ⟨o, -, rfl⟩ | ⟨i, -, -, he⟩⟩ := step_cases h
  · rfl
  · exact he.eq_of_ended hrun hended

/-! ## The cause of each outcome (R280 to R285) -/

/-- The cause of an outcome of fetch or decode. -/
inductive FetchCause (s : State) : RunStatus → Prop where
  | endOfProgram (hpc : s.pc.toNat = 4 * s.imem.length) : FetchCause s .endOfProgram
  | outside (hpc : s.pc.toNat ≠ 4 * s.imem.length) (hout : s.pc.toNat % 4 ≠ 0 ∨ s.imem.length ≤ s.pc.toNat / 4) :
      FetchCause s (.addressingFault .fetch s.pc)
  | unlisted (w : Word) (hw : FetchesWord s w) (hn : ¬InOpcodeTable w) : FetchCause s (.decodeFault w)

theorem FetchesWord.inside {s : State} {w : Word} (h : FetchesWord s w) :
    s.pc.toNat % 4 = 0 ∧ s.pc.toNat / 4 < s.imem.length := by
  obtain ⟨haligned, hword⟩ := h
  exact ⟨haligned, (List.getElem?_eq_some_iff.1 hword).1⟩

theorem FetchCause.fetchInstr_eq {s : State} {o : RunStatus} (h : FetchCause s o) : s.fetchInstr = .error o := by
  cases h with
  | endOfProgram hpc =>
    rcases s.fetch_cases with ⟨w, hw, -⟩ | ⟨-, -, hf⟩ | ⟨-, hne, -⟩
    · obtain ⟨haligned, hin⟩ := hw.inside
      omega
    · rw [State.fetchInstr, hf]
    · exact absurd hpc hne
  | outside hpc hout =>
    rcases s.fetch_cases with ⟨w, hw, -⟩ | ⟨-, heq, -⟩ | ⟨-, -, hf⟩
    · obtain ⟨haligned, hin⟩ := hw.inside
      omega
    · exact absurd heq hpc
    · rw [State.fetchInstr, hf]
  | unlisted w hw hn =>
    obtain ⟨e, he⟩ := not_inOpcodeTable_iff.1 hn
    simp only [State.fetchInstr, State.fetch_eq_ok hw, he]

theorem fetchCause_of_fetchInstr {s : State} {o : RunStatus} (h : s.fetchInstr = .error o) : FetchCause s o := by
  rcases s.fetch_cases with ⟨w, hw, hf⟩ | ⟨-, hpc, hf⟩ | ⟨hnone, hpc, hf⟩ <;> simp only [State.fetchInstr, hf] at h
  · cases hd : decode w with
    | error e =>
      rw [hd] at h
      cases h
      exact .unlisted w hw (not_inOpcodeTable_iff.2 ⟨e, hd⟩)
    | ok i =>
      rw [hd] at h
      cases h
  · cases h
    exact .endOfProgram hpc
  · cases h
    refine .outside hpc (Decidable.or_iff_not_imp_left.2 fun haligned => ?_)
    by_contra hlt
    exact hnone _ ⟨not_not.1 haligned, List.getElem?_eq_getElem (Nat.lt_of_not_le hlt)⟩

theorem fetchInstr_eq_error_iff {s : State} {o : RunStatus} : s.fetchInstr = .error o ↔ FetchCause s o :=
  ⟨fetchCause_of_fetchInstr, FetchCause.fetchInstr_eq⟩

/-- A running step ends the run exactly with the outcomes that have a cause at fetch, decode or execute. -/
theorem step_status_eq_iff {s t : State} {o : RunStatus} (hrun : s.status = .running) (h : step s = .next t)
    (ho : o ≠ .running) :
    t.status = o ↔ FetchCause s o ∨ ∃ i, FetchesInstr s i ∧ EndCause i s o := by
  constructor
  · rintro rfl
    obtain ⟨-, ⟨o, hf, rfl⟩ | ⟨i, hf, hexec, -⟩⟩ := step_cases h
    · exact .inl (fetchInstr_eq_error_iff.1 hf)
    · exact .inr ⟨i, State.fetchInstr_eq_ok_iff.1 hf, (exec_status_cases hrun hexec).resolve_left ho⟩
  · rintro (hcause | ⟨i, hi, hcause⟩)
    · have hnext := step_of_fetchInstr_error hrun hcause.fetchInstr_eq
      exact congrArg State.status (Host.Outcome.next.inj (h.symm.trans hnext))
    · exact hcause.endsRun.status_eq ((step_of_fetchesInstr hrun hi).symm.trans h)

/-- A failed bounds check names an index outside the store (R46). -/
theorem indicesOk_eq_false_iff {p : Params} {js : List Int} :
    indicesOk p js = false ↔ ∃ j ∈ js, j < 0 ∨ (p.capacity : Int) ≤ j := by
  rw [← Bool.not_eq_true, indicesOk_iff]
  push Not
  refine exists_congr fun j => and_congr_right fun _ => ?_
  omega

/-- Settles O33: for each outcome, the constructors of the causes that have it. -/
theorem outcomesHaveTheirCause : Obligations.OutcomesHaveTheirCause := by
  intro s t hrun h
  have hiff {o : RunStatus} (ho : o ≠ .running) := step_status_eq_iff hrun h ho
  refine ⟨?endOfProgram, fun a => ?fetch, fun w => ?decode, fun a => ?load, fun a => ?store, fun c => ?halted,
    fun v => ?unsupported⟩
  case endOfProgram =>
    rw [hiff (by simp)]
    constructor
    · rintro (hf | ⟨i, -, he⟩)
      · cases hf with
        | endOfProgram hpc => exact hpc
      · cases he
    · exact fun hpc => .inl (.endOfProgram hpc)
  case fetch =>
    rw [hiff (by simp)]
    constructor
    · rintro (hf | ⟨i, -, he⟩)
      · cases hf with
        | outside hpc hout => exact ⟨rfl, hpc, hout⟩
      · cases he
    · rintro ⟨rfl, hpc, hout⟩
      exact .inl (.outside hpc hout)
  case decode =>
    rw [hiff (by simp)]
    constructor
    · rintro (hf | ⟨i, -, he⟩)
      · cases hf with
        | unlisted _ hw hn => exact ⟨hw, hn⟩
      · cases he
    · rintro ⟨hw, hn⟩
      exact .inl (.unlisted w hw hn)
  case load =>
    rw [hiff (by simp)]
    constructor
    · rintro (hf | ⟨i, hi, he⟩)
      · cases hf
      · cases he with
        | load n rs1 imm hld hbad => exact ⟨i, n, rs1, imm, hi, hld, rfl, indicesOk_eq_false_iff.1 hbad⟩
    · rintro ⟨i, n, rs1, imm, hi, hld, rfl, hbad⟩
      exact .inr ⟨i, hi, .load n rs1 imm hld (indicesOk_eq_false_iff.2 hbad)⟩
  case store =>
    rw [hiff (by simp)]
    constructor
    · rintro (hf | ⟨i, hi, he⟩)
      · cases hf
      · cases he with
        | store n rs2 rs1 imm hst hbad => exact ⟨i, n, rs2, rs1, imm, hi, hst, rfl, indicesOk_eq_false_iff.1 hbad⟩
    · rintro ⟨i, n, rs2, rs1, imm, hi, hst, rfl, hbad⟩
      exact .inr ⟨i, hi, .store n rs2 rs1 imm hst (indicesOk_eq_false_iff.2 hbad)⟩
  case halted =>
    rw [hiff (by simp)]
    constructor
    · rintro (hf | ⟨i, hi, he⟩)
      · cases hf
      · cases he with
        | exit hecall h10 => exact ⟨hecall ▸ hi, .inl ⟨h10, rfl⟩⟩
        | exitCode hecall h17 => exact ⟨hecall ▸ hi, .inr ⟨h17, rfl⟩⟩
    · rintro ⟨hi, ⟨h10, rfl⟩ | ⟨h17, rfl⟩⟩
      · exact .inr ⟨_, hi, .exit rfl h10⟩
      · exact .inr ⟨_, hi, .exitCode rfl h17⟩
  case unsupported =>
    rw [hiff (by simp)]
    constructor
    · rintro (hf | ⟨i, hi, he⟩)
      · cases hf
      · cases he with
        | unsupported hecall h10 h17 => exact ⟨hecall ▸ hi, rfl, h10, h17⟩
    · rintro ⟨hi, rfl, h10, h17⟩
      exact .inr ⟨_, hi, .unsupported rfl h10 h17⟩

/-- Settles O34: a decode fault from the word's cause; each of the words has an opcode outside the table, or is a SYSTEM
word other than ECALL. -/
theorem unlistedWordEndsTheRun : Obligations.UnlistedWordEndsTheRun := by
  refine ⟨fun s w hrun hw hn => ?faults, fun w hw => ?unlisted⟩
  case faults => exact step_of_fetchInstr_error hrun (FetchCause.unlisted w hw hn).fetchInstr_eq
  rw [not_inOpcodeTable_iff]
  have hopcode (h : fieldOpcode w ∉ listedOpcodes) : ∃ e, decode w = .error e := ⟨_, decode_of_opcode_unlisted h⟩
  have hsystem (hop : fieldOpcode w = 0b1110011) (hne : w ≠ 0x00000073) : ∃ e, decode w = .error e :=
    ⟨_, (decode_of_opcode_system hop).trans (decodeSystem_of_ne_ecall hne)⟩
  rcases hw with hop | hop | rfl | rfl | rfl | rfl | rfl | rfl
  · exact hopcode (by rw [fieldOpcode, hop]; decide)
  · exact hopcode (by rw [fieldOpcode, hop]; decide)
  · exact hsystem (by decide) (by decide)
  · exact hsystem (by decide) (by decide)
  · exact hsystem (by decide) (by decide)
  · exact hsystem (by decide) (by decide)
  · exact hopcode (by decide)
  · exact hopcode (by decide)

end Sys2Proof.Machine
end

section
/-! PROOFS. Two programs of one word: the self-jump, which never ends (R300, R323), and a word placed at the pc. -/

namespace Sys2Proof.Machine

/-! ## The self-jump -/

theorem decode_selfJump : decode 0x0000006F = .ok (.jal 0 0) := by
  decide

/-- A jump by 0 that links to `x0` writes the pc back. -/
theorem exec_selfJump (s : State) : exec (.jal 0 0) s = .next s := by
  have hlink : s.writeReg 0 s.nextPc = s := s.writeReg_zero _
  have htarget : s.jumpTarget 0 = s.pc := by
    rw [State.jumpTarget, jumpWord]
    simp
  rw [exec, execJal, State.linkTo, hlink, htarget]
  rfl

/-- Settles O35: one step gives the state back, so any number of them does. -/
theorem selfJumpNeverEnds : Obligations.SelfJumpNeverEnds := by
  intro k s hrun hw
  have hstep : step s = .next s :=
    (step_of_fetchesInstr hrun ⟨_, hw, decode_selfJump⟩).trans (exec_selfJump s)
  induction k with
  | zero => rfl
  | succ k ih => exact run_succ_eq_next_iff.2 ⟨s, hstep, ih⟩

/-! ## A placed word -/

theorem wordOfBytes_bytes (w : Word) :
    wordOfBytes (w.extractLsb' 0 8) (w.extractLsb' 8 8) (w.extractLsb' 16 8) (w.extractLsb' 24 8) = w := by
  unfold wordOfBytes
  refine BitVec.eq_of_getLsbD_eq fun k hk => ?_
  simp only [BitVec.getLsbD_append, BitVec.getLsbD_extractLsb']
  interval_cases k <;> simp

theorem decode_of_decodeTableWord {nbits w : Nat} {i : Instr} (h : decodeTableWord nbits w = some i) :
    decode (BitVec.ofNat 32 (w % 2 ^ nbits)) = .ok i := by
  rw [decodeTableWord, bytesOfWord, decodeBytes, wordOfBytes_bytes] at h
  cases hd : decode (BitVec.ofNat 32 (w % 2 ^ nbits)) with
  | error e =>
    rw [hd] at h
    cases h
  | ok j =>
    rw [hd] at h
    cases h
    rfl

/-- The image is long enough to hold the word, and the pc is rounded down to the word's address. -/
theorem fetchesWord_withFetchWord (s : State) (nbits w : Nat) :
    FetchesWord (s.withFetchWord nbits w) (BitVec.ofNat 32 (w % 2 ^ nbits)) := by
  have hlt := s.pc.isLt
  have hpc : (s.withFetchWord nbits w).pc.toNat = 4 * (s.pc.toNat / 4) := by
    rw [State.withFetchWord, BitVec.toNat_ofNat]
    omega
  refine ⟨by omega, ?_⟩
  rw [hpc, Nat.mul_div_cancel_left _ (by decide), State.withFetchWord, List.getElem?_set_self]
  rw [List.length_append, List.length_replicate]
  omega

/-- Settles O36: the placed word is the one at the pc, so the step runs what it decodes to. -/
theorem placedWordRunsNext : Obligations.PlacedWordRunsNext := by
  intro s w i h
  exact step_of_fetchesInstr rfl ⟨_, fetchesWord_withFetchWord s 32 w, decode_of_decodeTableWord h⟩

end Sys2Proof.Machine
end

section
/-! PROOFS. What the host sees of an ended run (R288, R289): the layout of the register dump, and the exit statuses. -/

namespace Sys2Proof.Machine

/-! ## The register dump -/

section
variable {α : Type} {f : Nat → List α} {m : Nat} (hlen : ∀ i, (f i).length = m)
include hlen

theorem length_flatMap_range (n : Nat) : ((List.range n).flatMap f).length = m * n := by
  simp [List.length_flatMap, hlen, Nat.mul_comm]

/-- In a list made of blocks of equal length, entry `k` of block `i` stands at `m · i + k`. -/
theorem getElem?_flatMap_range {n i k : Nat} (hi : i < n) (hk : k < m) :
    ((List.range n).flatMap f)[m * i + k]? = (f i)[k]? := by
  induction n with
  | zero => exact absurd hi (Nat.not_lt_zero i)
  | succ n ih =>
    have hbefore := length_flatMap_range hlen n
    rw [List.range_succ, List.flatMap_append, List.flatMap_singleton]
    rcases Nat.lt_succ_iff_lt_or_eq.1 hi with hlt | rfl
    · have hblock : m * i + m ≤ m * n := Nat.mul_succ m i ▸ Nat.mul_le_mul_left m hlt
      rw [List.getElem?_append_left (by omega), ih hlt]
    · rw [List.getElem?_append_right (by omega), hbefore, Nat.add_sub_cancel_left]

end

theorem length_regBytes (v : Word) : (regBytes v).length = 4 := rfl

theorem getElem?_regBytes (v : Word) {k : Nat} (hk : k < 4) : (regBytes v)[k]? = some (byteOf v k) := by
  rcases k with _ | _ | _ | _ | k
  · rfl
  · rfl
  · rfl
  · rfl
  · omega

theorem State.getElem?_registerDump (s : State) {i k : Nat} (hi : i < 32) (hk : k < 4) :
    s.registerDump[4 * i + k]? = some (byteOf (s.readReg (BitVec.ofNat 5 i)) k) := by
  rw [State.registerDump, getElem?_flatMap_range (fun _ => length_regBytes _) hi hk, getElem?_regBytes _ hk]

/-- Settles O41: 32 blocks of four bytes, the first one of `x0`; present in an ended run alone. -/
theorem registerDumpLayout : Obligations.RegisterDumpLayout := by
  intro s
  refine ⟨?length, fun i hi k hk => ?byte, fun k hk => ?zero, fun hrun => ?running, fun hended => ?ended⟩
  case length => exact length_flatMap_range (fun _ => length_regBytes _) 32
  case byte =>
    rw [s.getElem?_registerDump hi hk]
    exact congrArg some (toNat_byteOf _ k)
  case zero =>
    have hfirst := s.getElem?_registerDump (i := 0) (by decide) hk
    rw [Nat.mul_zero, Nat.zero_add, s.readReg_zero] at hfirst
    rw [hfirst]
    simp [byteOf]
  case running => rw [State.dump, if_pos (RunStatus.isRunning_iff.2 hrun)]
  case ended => rw [State.dump, if_neg (mt RunStatus.isRunning_iff.1 hended)]

/-! ## The exit statuses -/

theorem skipping_ne (t u : Nat) : skipping t u ≠ t := by
  unfold skipping
  split_ifs <;> omega

theorem le_skipping (t u : Nat) : u ≤ skipping t u := by
  unfold skipping
  split_ifs <;> omega

/-- Leaving out a second, larger number brings no smaller one back. -/
theorem skipping_skipping_ne {t t' : Nat} (h : t ≤ t') (u : Nat) : skipping t' (skipping t u) ≠ t := by
  have hne := skipping_ne t u
  rw [skipping]
  split_ifs <;> omega

theorem addressingFaultStatus_ne_decodeFaultStatus : addressingFaultStatus ≠ decodeFaultStatus := by
  unfold addressingFaultStatus
  split_ifs <;> omega

/-- The third status skips the other two, whichever is larger. -/
theorem unsupportedSyscallStatus_ne :
    unsupportedSyscallStatus ≠ decodeFaultStatus ∧ unsupportedSyscallStatus ≠ addressingFaultStatus := by
  have hmax := skipping_ne (max decodeFaultStatus addressingFaultStatus)
    (skipping (min decodeFaultStatus addressingFaultStatus) (Config.freeStatus 2 + 1))
  have hmin := skipping_skipping_ne (min_le_max (a := decodeFaultStatus) (b := addressingFaultStatus))
    (Config.freeStatus 2 + 1)
  rw [← unsupportedSyscallStatus] at hmax hmin
  omega

theorem faultStatuses_ne_zero :
    decodeFaultStatus ≠ 0 ∧ addressingFaultStatus ≠ 0 ∧ unsupportedSyscallStatus ≠ 0 := by
  refine ⟨Nat.succ_ne_zero _, ?_, ?_⟩
  · unfold addressingFaultStatus
    split_ifs <;> omega
  · have hinner := le_skipping (min decodeFaultStatus addressingFaultStatus) (Config.freeStatus 2 + 1)
    have houter := le_skipping (max decodeFaultStatus addressingFaultStatus)
      (skipping (min decodeFaultStatus addressingFaultStatus) (Config.freeStatus 2 + 1))
    rw [← unsupportedSyscallStatus] at houter
    omega

/-- Settles O42: the three fault statuses are nonzero and different whatever the free numbers are. -/
theorem exitStatusesAreDistinct : Obligations.ExitStatusesAreDistinct := by
  obtain ⟨hd, ha, hu⟩ := faultStatuses_ne_zero
  obtain ⟨hud, hua⟩ := unsupportedSyscallStatus_ne
  have hda := addressingFaultStatus_ne_decodeFaultStatus.symm
  exact ⟨fun _ => rfl, rfl, ⟨_, rfl⟩, decodeFaultStatus, addressingFaultStatus, unsupportedSyscallStatus, hd, ha, hu,
    hda, hud.symm, hua.symm, fun _ => rfl, fun _ _ => rfl, fun _ => rfl⟩

end Sys2Proof.Machine
end
